-- ==== Sys2Proof/Word.lean ====
section
/-! DEFINITION. The widths of the core: bytes, 16-bit words, 4-bit fields, 12-bit addresses, and the
index of a general register (00_scope.md rules R7, R10, R15). -/

namespace Sys2Proof

/-- An 8-bit quantity: a general register, a timer, a memory byte, the field `kk` (R7, R15). -/
abbrev Byte := BitVec 8

/-- A 16-bit quantity: the instruction word, PC, I and a stack entry (R7). -/
abbrev Word := BitVec 16

/-- A 4-bit field of the instruction word: `op`, `x`, `y`, `n` (R101). -/
abbrev Nibble := BitVec 4

/-- The 12-bit field `nnn` of the instruction word (R101). -/
abbrev Addr12 := BitVec 12

/-- The number of a general register, 0 to 15 (R32). -/
abbrev Reg := Fin 16

/-- VF, the register that doubles as the flag output (R33). -/
abbrev VF : Reg := 15

end Sys2Proof
end

