-- ==== Sys2Proof/Config.lean ====
section
/-! DEFINITION. What is fixed for a machine: the named parameters of 00_scope.md rule R8, and the free values
that stand for the tick inputs the host has not lined up (R42, R281; log entries 1 and 2). The sizes of rule R7
stand in the types and as the spec's own numbers: MEM_SIZE 4096, LOAD_BASE 0x200, MAX_PROGRAM 3584, STACK_DEPTH
16. -/

namespace Sys2Proof

/-- DECODE_MODE: which bits the dispatch examines (R8, R116, R117; decision D3). -/
inductive DecodeMode where
  | mux
  | strict
  deriving DecidableEq, Repr

/-- VF_DEST_WINNER: what VF holds after a flag writer whose destination is VF (R8, R264; decision D9). -/
inductive VfDestWinner where
  | flag
  | result
  deriving DecidableEq, Repr

/-- PC_CHECK: which program counters fetch accepts (R8, R223; decision D12). -/
inductive PcCheck where
  | strict
  | bounds
  deriving DecidableEq, Repr

/-- The parameters a tick depends on (R8). FONT, the fourth parameter, is an argument of Construct only. -/
structure Params where
  decodeMode : DecodeMode
  vfDestWinner : VfDestWinner
  pcCheck : PcCheck
  deriving DecidableEq, Repr

/-- The defaults of R8: MUX, FLAG, STRICT. -/
def Params.default : Params := ⟨.mux, .flag, .strict⟩

/-- The inputs of one tick: KEY, bit k of which says that key k is pressed, and the random byte RND (R8,
R42, R281). -/
structure TickInput where
  key : BitVec 16
  rnd : Byte
  deriving DecidableEq, Repr

/-- KEY of the tick number `n` where the host has lined up no input: a free value (U12; log entry 1). -/
opaque Config.freeKey : Nat → BitVec 16

/-- RND of the tick number `n` where the host has lined up no input: a free value (U11; log entry 1). -/
opaque Config.freeRnd : Nat → Byte

end Sys2Proof
end

