-- ==== Sys2Proof/Syntax.lean ====
section
/-! DEFINITION. The instructions of the core, one constructor per row of spec/opcode_table.json, in the
table's order (30_encoding.md rule R130). The operands are the fields the table gives the row. -/

namespace Sys2Proof

/-- The 34 instructions (R130; 90_conflicts.md C1). `x` and `y` number general registers, `kk` is an 8-bit
immediate, `nnn` a 12-bit address, `n` a count of sprite rows (R15, R105). The shifts keep the field `y` of
their encoding, which they do not read (R104, R266; log entry 9). -/
inductive Instr where
  | clearScreen
  | ret
  | jump (nnn : Addr12)
  | call (nnn : Addr12)
  | skipEq (x : Reg) (kk : Byte)
  | skipNe (x : Reg) (kk : Byte)
  | skipRegEq (x y : Reg)
  | loadImm (x : Reg) (kk : Byte)
  | addImm (x : Reg) (kk : Byte)
  | copy (x y : Reg)
  | orReg (x y : Reg)
  | andReg (x y : Reg)
  | xorReg (x y : Reg)
  | addReg (x y : Reg)
  | subReg (x y : Reg)
  | shiftRight (x y : Reg)
  | subnReg (x y : Reg)
  | shiftLeft (x y : Reg)
  | skipRegNe (x y : Reg)
  | loadIndex (nnn : Addr12)
  | jumpOffset (nnn : Addr12)
  | random (x : Reg) (kk : Byte)
  | draw (x y : Reg) (n : Nat)
  | skipKey (x : Reg)
  | skipNotKey (x : Reg)
  | getDelay (x : Reg)
  | waitKey (x : Reg)
  | setDelay (x : Reg)
  | setSound (x : Reg)
  | addIndex (x : Reg)
  | fontChar (x : Reg)
  | storeBcd (x : Reg)
  | storeRegisters (x : Reg)
  | loadRegisters (x : Reg)
  deriving DecidableEq, Repr

end Sys2Proof
end

