-- ==== Sys2Proof/WellFormed.lean ====
section
/-! DEFINITION. Which instruction terms an encoding can hold. Register numbers, `kk` and `nnn` are bounded by
their types; the sprite height of draw is a natural number, and the field `n` has 4 bits (R15, R105). -/

namespace Sys2Proof

/-- A sprite height fits the 4-bit field `n` (R105: "sprite height 0..15"). -/
def heightFits (n : Nat) : Bool := decide (n ≤ 15)

/-- The instruction can be encoded: every operand fits its field (R104, R105). -/
def Instr.wellFormed : Instr → Bool
  | .clearScreen => true
  | .ret => true
  | .jump _ => true
  | .call _ => true
  | .skipEq _ _ => true
  | .skipNe _ _ => true
  | .skipRegEq _ _ => true
  | .loadImm _ _ => true
  | .addImm _ _ => true
  | .copy _ _ => true
  | .orReg _ _ => true
  | .andReg _ _ => true
  | .xorReg _ _ => true
  | .addReg _ _ => true
  | .subReg _ _ => true
  | .shiftRight _ _ => true
  | .subnReg _ _ => true
  | .shiftLeft _ _ => true
  | .skipRegNe _ _ => true
  | .loadIndex _ => true
  | .jumpOffset _ => true
  | .random _ _ => true
  | .draw _ _ n => heightFits n
  | .skipKey _ => true
  | .skipNotKey _ => true
  | .getDelay _ => true
  | .waitKey _ => true
  | .setDelay _ => true
  | .setSound _ => true
  | .addIndex _ => true
  | .fontChar _ => true
  | .storeBcd _ => true
  | .storeRegisters _ => true
  | .loadRegisters _ => true

end Sys2Proof
end

