-- ==== Sys2Proof/Decode.lean ====
section
/-! DEFINITION. The decoder (bit-field extraction), the two-level dispatch mux in both modes, the opcode map
as mask and match pairs, the decoder on bytes, and after it the encoder (30_encoding.md rules R100 to R131).
The opcode numbers are rule R130's; the spec marks them as general knowledge (log entry 11). -/

namespace Sys2Proof

/-- The six fields of an instruction word (R101, R103). -/
structure Fields where
  op : Nibble
  x : Nibble
  y : Nibble
  n : Nibble
  kk : Byte
  nnn : Addr12
  deriving DecidableEq, Repr

/-- The decoder of R101: `op = iw[15:12]`, `x = iw[11:8]`, `y = iw[7:4]`, `n = iw[3:0]`, `kk = iw[7:0]`,
`nnn = iw[11:0]`. It is total and has no state (R102). -/
def decodeFields (iw : Word) : Fields where
  op := iw.extractLsb' 12 4
  x := iw.extractLsb' 8 4
  y := iw.extractLsb' 4 4
  n := iw.extractLsb' 0 4
  kk := iw.extractLsb' 0 8
  nnn := iw.extractLsb' 0 12

/-- The 34 handler identifiers of the output `hsel` (R118); `PLACEHOLDER` is `none` of `Option Handler`. -/
inductive Handler where
  | clearScreen | ret | jump | call | skipEq | skipNe | skipRegEq | loadImm | addImm | copy
  | orReg | andReg | xorReg | addReg | subReg | shiftRight | subnReg | shiftLeft | skipRegNe
  | loadIndex | jumpOffset | random | draw | skipKey | skipNotKey | getDelay | waitKey | setDelay
  | setSound | addIndex | fontChar | storeBcd | storeRegisters | loadRegisters
  deriving DecidableEq, Repr

/-- The content of a slot of the primary table: a terminal handler or the route to a secondary table
(R110). -/
inductive PrimarySlot where
  | handler (h : Handler)
  | sec0
  | sec8
  | secE
  | secF
  deriving DecidableEq, Repr

/-- The primary table, indexed by the top nibble (R111). -/
def primary (op : Nibble) : PrimarySlot :=
  match op.toNat with
  | 0x0 => .sec0
  | 0x1 => .handler .jump
  | 0x2 => .handler .call
  | 0x3 => .handler .skipEq
  | 0x4 => .handler .skipNe
  | 0x5 => .handler .skipRegEq
  | 0x6 => .handler .loadImm
  | 0x7 => .handler .addImm
  | 0x8 => .sec8
  | 0x9 => .handler .skipRegNe
  | 0xA => .handler .loadIndex
  | 0xB => .handler .jumpOffset
  | 0xC => .handler .random
  | 0xD => .handler .draw
  | 0xE => .secE
  | _ => .secF

/-- SEC0, indexed by the lowest nibble (R112). -/
def sec0 (n : Nibble) : Option Handler :=
  match n.toNat with
  | 0x0 => some .clearScreen
  | 0xE => some .ret
  | _ => none

/-- SEC8, indexed by the lowest nibble (R113). -/
def sec8 (n : Nibble) : Option Handler :=
  match n.toNat with
  | 0x0 => some .copy
  | 0x1 => some .orReg
  | 0x2 => some .andReg
  | 0x3 => some .xorReg
  | 0x4 => some .addReg
  | 0x5 => some .subReg
  | 0x6 => some .shiftRight
  | 0x7 => some .subnReg
  | 0xE => some .shiftLeft
  | _ => none

/-- SECE, indexed by the lowest nibble (R114). -/
def secE (n : Nibble) : Option Handler :=
  match n.toNat with
  | 0xE => some .skipKey
  | 0x1 => some .skipNotKey
  | _ => none

/-- SECF, indexed by the whole low byte, 256 slots (R115; decision D4). -/
def secF (kk : Byte) : Option Handler :=
  match kk.toNat with
  | 0x07 => some .getDelay
  | 0x0A => some .waitKey
  | 0x15 => some .setDelay
  | 0x18 => some .setSound
  | 0x1E => some .addIndex
  | 0x29 => some .fontChar
  | 0x33 => some .storeBcd
  | 0x55 => some .storeRegisters
  | 0x65 => some .loadRegisters
  | _ => none

/-- The dispatch under DECODE_MODE = MUX (R116); `none` is the placeholder. -/
def dispatchMux (iw : Word) : Option Handler :=
  match primary (decodeFields iw).op with
  | .handler h => some h
  | .sec0 => sec0 (decodeFields iw).n
  | .sec8 => sec8 (decodeFields iw).n
  | .secE => secE (decodeFields iw).n
  | .secF => secF (decodeFields iw).kk

/-- The fixed bits of the published encoding that R117 examines beside the mux. -/
def publishedBits (iw : Word) : Bool :=
  let f := decodeFields iw
  match f.op.toNat with
  | 0x0 => iw == 0x00E0#16 || iw == 0x00EE#16
  | 0x5 => f.n == 0x0#4
  | 0x9 => f.n == 0x0#4
  | 0xE => f.kk == 0x9E#8 || f.kk == 0xA1#8
  | _ => true

/-- The dispatch under DECODE_MODE = STRICT (R117). -/
def dispatchStrict (iw : Word) : Option Handler :=
  match dispatchMux iw with
  | none => none
  | some h => if publishedBits iw then some h else none

/-- The dispatch mux under a mode (R116, R117). -/
def dispatch : DecodeMode → Word → Option Handler
  | .mux, iw => dispatchMux iw
  | .strict, iw => dispatchStrict iw

/-- A register number from its 4-bit field (R105). -/
def regOf (f : Nibble) : Reg := f.toFin

/-- The instruction a handler runs on the fields of its word (R104). -/
def assemble (h : Handler) (f : Fields) : Instr :=
  match h with
  | .clearScreen => .clearScreen
  | .ret => .ret
  | .jump => .jump f.nnn
  | .call => .call f.nnn
  | .skipEq => .skipEq (regOf f.x) f.kk
  | .skipNe => .skipNe (regOf f.x) f.kk
  | .skipRegEq => .skipRegEq (regOf f.x) (regOf f.y)
  | .loadImm => .loadImm (regOf f.x) f.kk
  | .addImm => .addImm (regOf f.x) f.kk
  | .copy => .copy (regOf f.x) (regOf f.y)
  | .orReg => .orReg (regOf f.x) (regOf f.y)
  | .andReg => .andReg (regOf f.x) (regOf f.y)
  | .xorReg => .xorReg (regOf f.x) (regOf f.y)
  | .addReg => .addReg (regOf f.x) (regOf f.y)
  | .subReg => .subReg (regOf f.x) (regOf f.y)
  | .shiftRight => .shiftRight (regOf f.x) (regOf f.y)
  | .subnReg => .subnReg (regOf f.x) (regOf f.y)
  | .shiftLeft => .shiftLeft (regOf f.x) (regOf f.y)
  | .skipRegNe => .skipRegNe (regOf f.x) (regOf f.y)
  | .loadIndex => .loadIndex f.nnn
  | .jumpOffset => .jumpOffset f.nnn
  | .random => .random (regOf f.x) f.kk
  | .draw => .draw (regOf f.x) (regOf f.y) f.n.toNat
  | .skipKey => .skipKey (regOf f.x)
  | .skipNotKey => .skipNotKey (regOf f.x)
  | .getDelay => .getDelay (regOf f.x)
  | .waitKey => .waitKey (regOf f.x)
  | .setDelay => .setDelay (regOf f.x)
  | .setSound => .setSound (regOf f.x)
  | .addIndex => .addIndex (regOf f.x)
  | .fontChar => .fontChar (regOf f.x)
  | .storeBcd => .storeBcd (regOf f.x)
  | .storeRegisters => .storeRegisters (regOf f.x)
  | .loadRegisters => .loadRegisters (regOf f.x)

/-- The instruction a word stands for under a mode; `none` where the dispatch reaches the placeholder (R119,
R131). -/
def decodeWord (mode : DecodeMode) (iw : Word) : Option Instr :=
  (dispatch mode iw).map fun h => assemble h (decodeFields iw)

/-- Why bytes are no instruction: fewer than two of them, or a word whose dispatch reaches the placeholder
(R100, R119). -/
inductive DecodeReject where
  | truncated
  | placeholder (iw : Word)
  deriving DecidableEq, Repr

/-- The word of two consecutive bytes, the byte at the lower address first: big-endian (R72). -/
def wordOfBytes (hi lo : Byte) : Word := hi ++ lo

/-- The decoder on bytes: the instruction of the first two bytes and the bytes after it (R100, R102). -/
def decode (mode : DecodeMode) : List Byte → Except DecodeReject (Instr × List Byte)
  | hi :: lo :: rest =>
    match decodeWord mode (wordOfBytes hi lo) with
    | some i => .ok (i, rest)
    | none => .error (.placeholder (wordOfBytes hi lo))
  | _ => .error .truncated

/-- The two bytes of a word in the order memory holds them (R72). -/
def bytesOfWord (iw : Word) : List Byte := [iw.extractLsb' 8 8, iw.extractLsb' 0 8]

/-- The word the opcode table numbers: its low `nbits` bits, everything above them 0. -/
def tableWord (nbits w : Nat) : Word := BitVec.ofNat 16 (w % 2 ^ nbits)

/-- The instruction the decoder reads from a word of the opcode table, under the default DECODE_MODE (R8;
log entry 14). -/
def decodeTableWord (nbits w : Nat) : Option Instr :=
  match decode Params.default.decodeMode (bytesOfWord (tableWord nbits w)) with
  | .ok (i, _) => some i
  | .error _ => none

/-- One row of the opcode map: the bits MUX tests and the bits STRICT tests (R130). -/
structure OpcodeRow where
  muxMask : Word
  muxMatch : Word
  strictMask : Word
  strictMatch : Word
  deriving DecidableEq, Repr

/-- The opcode map of R130, row by row. -/
def opcodeRow : Handler → OpcodeRow
  | .clearScreen => ⟨0xF00F, 0x0000, 0xFFFF, 0x00E0⟩
  | .ret => ⟨0xF00F, 0x000E, 0xFFFF, 0x00EE⟩
  | .jump => ⟨0xF000, 0x1000, 0xF000, 0x1000⟩
  | .call => ⟨0xF000, 0x2000, 0xF000, 0x2000⟩
  | .skipEq => ⟨0xF000, 0x3000, 0xF000, 0x3000⟩
  | .skipNe => ⟨0xF000, 0x4000, 0xF000, 0x4000⟩
  | .skipRegEq => ⟨0xF000, 0x5000, 0xF00F, 0x5000⟩
  | .loadImm => ⟨0xF000, 0x6000, 0xF000, 0x6000⟩
  | .addImm => ⟨0xF000, 0x7000, 0xF000, 0x7000⟩
  | .copy => ⟨0xF00F, 0x8000, 0xF00F, 0x8000⟩
  | .orReg => ⟨0xF00F, 0x8001, 0xF00F, 0x8001⟩
  | .andReg => ⟨0xF00F, 0x8002, 0xF00F, 0x8002⟩
  | .xorReg => ⟨0xF00F, 0x8003, 0xF00F, 0x8003⟩
  | .addReg => ⟨0xF00F, 0x8004, 0xF00F, 0x8004⟩
  | .subReg => ⟨0xF00F, 0x8005, 0xF00F, 0x8005⟩
  | .shiftRight => ⟨0xF00F, 0x8006, 0xF00F, 0x8006⟩
  | .subnReg => ⟨0xF00F, 0x8007, 0xF00F, 0x8007⟩
  | .shiftLeft => ⟨0xF00F, 0x800E, 0xF00F, 0x800E⟩
  | .skipRegNe => ⟨0xF000, 0x9000, 0xF00F, 0x9000⟩
  | .loadIndex => ⟨0xF000, 0xA000, 0xF000, 0xA000⟩
  | .jumpOffset => ⟨0xF000, 0xB000, 0xF000, 0xB000⟩
  | .random => ⟨0xF000, 0xC000, 0xF000, 0xC000⟩
  | .draw => ⟨0xF000, 0xD000, 0xF000, 0xD000⟩
  | .skipKey => ⟨0xF00F, 0xE00E, 0xF0FF, 0xE09E⟩
  | .skipNotKey => ⟨0xF00F, 0xE001, 0xF0FF, 0xE0A1⟩
  | .getDelay => ⟨0xF0FF, 0xF007, 0xF0FF, 0xF007⟩
  | .waitKey => ⟨0xF0FF, 0xF00A, 0xF0FF, 0xF00A⟩
  | .setDelay => ⟨0xF0FF, 0xF015, 0xF0FF, 0xF015⟩
  | .setSound => ⟨0xF0FF, 0xF018, 0xF0FF, 0xF018⟩
  | .addIndex => ⟨0xF0FF, 0xF01E, 0xF0FF, 0xF01E⟩
  | .fontChar => ⟨0xF0FF, 0xF029, 0xF0FF, 0xF029⟩
  | .storeBcd => ⟨0xF0FF, 0xF033, 0xF0FF, 0xF033⟩
  | .storeRegisters => ⟨0xF0FF, 0xF055, 0xF0FF, 0xF055⟩
  | .loadRegisters => ⟨0xF0FF, 0xF065, 0xF0FF, 0xF065⟩

/-- A word selects a row under a mode when `(iw & mask) == match` (R130). -/
def selectsRow (mode : DecodeMode) (h : Handler) (iw : Word) : Bool :=
  match mode with
  | .mux => iw &&& (opcodeRow h).muxMask == (opcodeRow h).muxMatch
  | .strict => iw &&& (opcodeRow h).strictMask == (opcodeRow h).strictMatch

/-! ## The encoder (R104, R130, R140) -/

/-- The 4-bit field that names a register (R105). -/
def regField (r : Reg) : Nibble := BitVec.ofNat 4 r.val

/-- Format NNN (R104). -/
def formNNN (op : Nibble) (nnn : Addr12) : Word := op ++ nnn

/-- Format XKK (R104). -/
def formXKK (op : Nibble) (x : Reg) (kk : Byte) : Word := (op ++ regField x : Byte) ++ kk

/-- Formats XY and XYN, the last nibble a function code or a count (R104). -/
def formXYN (op : Nibble) (x y : Reg) (n : Nibble) : Word :=
  (op ++ regField x : Byte) ++ (regField y ++ n : Byte)

/-- The word of an instruction: the published pattern of R130 with its fields filled in (R140). -/
def encode : Instr → Word
  | .clearScreen => 0x00E0
  | .ret => 0x00EE
  | .jump nnn => formNNN 0x1 nnn
  | .call nnn => formNNN 0x2 nnn
  | .skipEq x kk => formXKK 0x3 x kk
  | .skipNe x kk => formXKK 0x4 x kk
  | .skipRegEq x y => formXYN 0x5 x y 0x0
  | .loadImm x kk => formXKK 0x6 x kk
  | .addImm x kk => formXKK 0x7 x kk
  | .copy x y => formXYN 0x8 x y 0x0
  | .orReg x y => formXYN 0x8 x y 0x1
  | .andReg x y => formXYN 0x8 x y 0x2
  | .xorReg x y => formXYN 0x8 x y 0x3
  | .addReg x y => formXYN 0x8 x y 0x4
  | .subReg x y => formXYN 0x8 x y 0x5
  | .shiftRight x y => formXYN 0x8 x y 0x6
  | .subnReg x y => formXYN 0x8 x y 0x7
  | .shiftLeft x y => formXYN 0x8 x y 0xE
  | .skipRegNe x y => formXYN 0x9 x y 0x0
  | .loadIndex nnn => formNNN 0xA nnn
  | .jumpOffset nnn => formNNN 0xB nnn
  | .random x kk => formXKK 0xC x kk
  | .draw x y n => formXYN 0xD x y (BitVec.ofNat 4 n)
  | .skipKey x => formXKK 0xE x 0x9E
  | .skipNotKey x => formXKK 0xE x 0xA1
  | .getDelay x => formXKK 0xF x 0x07
  | .waitKey x => formXKK 0xF x 0x0A
  | .setDelay x => formXKK 0xF x 0x15
  | .setSound x => formXKK 0xF x 0x18
  | .addIndex x => formXKK 0xF x 0x1E
  | .fontChar x => formXKK 0xF x 0x29
  | .storeBcd x => formXKK 0xF x 0x33
  | .storeRegisters x => formXKK 0xF x 0x55
  | .loadRegisters x => formXKK 0xF x 0x65

/-- The bytes of an instruction as memory holds them (R72, R100). -/
def encodeBytes (i : Instr) : List Byte := bytesOfWord (encode i)

/-- The handler an instruction belongs to (R118, R130). -/
def handlerOf : Instr → Handler
  | .clearScreen => .clearScreen
  | .ret => .ret
  | .jump _ => .jump
  | .call _ => .call
  | .skipEq _ _ => .skipEq
  | .skipNe _ _ => .skipNe
  | .skipRegEq _ _ => .skipRegEq
  | .loadImm _ _ => .loadImm
  | .addImm _ _ => .addImm
  | .copy _ _ => .copy
  | .orReg _ _ => .orReg
  | .andReg _ _ => .andReg
  | .xorReg _ _ => .xorReg
  | .addReg _ _ => .addReg
  | .subReg _ _ => .subReg
  | .shiftRight _ _ => .shiftRight
  | .subnReg _ _ => .subnReg
  | .shiftLeft _ _ => .shiftLeft
  | .skipRegNe _ _ => .skipRegNe
  | .loadIndex _ => .loadIndex
  | .jumpOffset _ => .jumpOffset
  | .random _ _ => .random
  | .draw _ _ _ => .draw
  | .skipKey _ => .skipKey
  | .skipNotKey _ => .skipNotKey
  | .getDelay _ => .getDelay
  | .waitKey _ => .waitKey
  | .setDelay _ => .setDelay
  | .setSound _ => .setSound
  | .addIndex _ => .addIndex
  | .fontChar _ => .fontChar
  | .storeBcd _ => .storeBcd
  | .storeRegisters _ => .storeRegisters
  | .loadRegisters _ => .loadRegisters

/-! ## Assembler text (R140; decision D30) -/

/-- A hexadecimal digit. -/
def hexDigit (n : Nat) : Char := "0123456789ABCDEF".toList.getD n '0'

/-- A register operand, `V0` to `VF`. -/
def regText (r : Reg) : String := String.ofList ['V', hexDigit r.val]

/-- `kk` as `0x` hex. -/
def hexKk (kk : Byte) : String := String.ofList ['0', 'x', hexDigit (kk.toNat / 16), hexDigit (kk.toNat % 16)]

/-- `nnn` as `0x` hex. -/
def hexNnn (nnn : Addr12) : String :=
  String.ofList ['0', 'x', hexDigit (nnn.toNat / 256), hexDigit (nnn.toNat / 16 % 16), hexDigit (nnn.toNat % 16)]

/-- The operands `Vx, Vy`. -/
def vxVy (x y : Reg) : String := regText x ++ ", " ++ regText y

/-- The operands `Vx, 0xkk`. -/
def vxKk (x : Reg) (kk : Byte) : String := regText x ++ ", " ++ hexKk kk

/-- An instruction in the spec's syntax (R140). -/
def asmText : Instr → String
  | .clearScreen => "clear-screen"
  | .ret => "return"
  | .jump nnn => "jump " ++ hexNnn nnn
  | .call nnn => "call " ++ hexNnn nnn
  | .skipEq x kk => "skip-eq " ++ vxKk x kk
  | .skipNe x kk => "skip-ne " ++ vxKk x kk
  | .skipRegEq x y => "skip-reg-eq " ++ vxVy x y
  | .loadImm x kk => "load-imm " ++ vxKk x kk
  | .addImm x kk => "add-imm " ++ vxKk x kk
  | .copy x y => "copy " ++ vxVy x y
  | .orReg x y => "or " ++ vxVy x y
  | .andReg x y => "and " ++ vxVy x y
  | .xorReg x y => "xor " ++ vxVy x y
  | .addReg x y => "add-reg " ++ vxVy x y
  | .subReg x y => "sub-reg " ++ vxVy x y
  | .shiftRight x _ => "shift-right " ++ regText x
  | .subnReg x y => "subn-reg " ++ vxVy x y
  | .shiftLeft x _ => "shift-left " ++ regText x
  | .skipRegNe x y => "skip-reg-ne " ++ vxVy x y
  | .loadIndex nnn => "load-index " ++ hexNnn nnn
  | .jumpOffset nnn => "jump-offset " ++ hexNnn nnn
  | .random x kk => "random " ++ vxKk x kk
  | .draw x y n => "draw " ++ vxVy x y ++ ", " ++ Nat.repr n
  | .skipKey x => "skip-key " ++ regText x
  | .skipNotKey x => "skip-not-key " ++ regText x
  | .getDelay x => "get-delay " ++ regText x
  | .waitKey x => "wait-key " ++ regText x
  | .setDelay x => "set-delay " ++ regText x
  | .setSound x => "set-sound " ++ regText x
  | .addIndex x => "add-index " ++ regText x
  | .fontChar x => "font-char " ++ regText x
  | .storeBcd x => "store-bcd " ++ regText x
  | .storeRegisters x => "store-registers " ++ regText x
  | .loadRegisters x => "load-registers " ++ regText x

/-- An instruction in the conventional syntax, which the spec gives from general knowledge (R140; log entry
20). -/
def conventionalText : Instr → String
  | .clearScreen => "CLS"
  | .ret => "RET"
  | .jump nnn => "JP " ++ hexNnn nnn
  | .call nnn => "CALL " ++ hexNnn nnn
  | .skipEq x kk => "SE " ++ vxKk x kk
  | .skipNe x kk => "SNE " ++ vxKk x kk
  | .skipRegEq x y => "SE " ++ vxVy x y
  | .loadImm x kk => "LD " ++ vxKk x kk
  | .addImm x kk => "ADD " ++ vxKk x kk
  | .copy x y => "LD " ++ vxVy x y
  | .orReg x y => "OR " ++ vxVy x y
  | .andReg x y => "AND " ++ vxVy x y
  | .xorReg x y => "XOR " ++ vxVy x y
  | .addReg x y => "ADD " ++ vxVy x y
  | .subReg x y => "SUB " ++ vxVy x y
  | .shiftRight x _ => "SHR " ++ regText x
  | .subnReg x y => "SUBN " ++ vxVy x y
  | .shiftLeft x _ => "SHL " ++ regText x
  | .skipRegNe x y => "SNE " ++ vxVy x y
  | .loadIndex nnn => "LD I, " ++ hexNnn nnn
  | .jumpOffset nnn => "JP V0, " ++ hexNnn nnn
  | .random x kk => "RND " ++ vxKk x kk
  | .draw x y n => "DRW " ++ vxVy x y ++ ", " ++ Nat.repr n
  | .skipKey x => "SKP " ++ regText x
  | .skipNotKey x => "SKNP " ++ regText x
  | .getDelay x => "LD " ++ regText x ++ ", DT"
  | .waitKey x => "LD " ++ regText x ++ ", K"
  | .setDelay x => "LD DT, " ++ regText x
  | .setSound x => "LD ST, " ++ regText x
  | .addIndex x => "ADD I, " ++ regText x
  | .fontChar x => "LD F, " ++ regText x
  | .storeBcd x => "LD B, " ++ regText x
  | .storeRegisters x => "LD [I], " ++ regText x
  | .loadRegisters x => "LD " ++ regText x ++ ", [I]"

/-- The instruction as an assembler emits it: the field `y` of a shift, which no operand names, is written as 0
(R140). -/
def asmForm : Instr → Instr
  | .clearScreen => .clearScreen
  | .ret => .ret
  | .jump nnn => .jump nnn
  | .call nnn => .call nnn
  | .skipEq x kk => .skipEq x kk
  | .skipNe x kk => .skipNe x kk
  | .skipRegEq x y => .skipRegEq x y
  | .loadImm x kk => .loadImm x kk
  | .addImm x kk => .addImm x kk
  | .copy x y => .copy x y
  | .orReg x y => .orReg x y
  | .andReg x y => .andReg x y
  | .xorReg x y => .xorReg x y
  | .addReg x y => .addReg x y
  | .subReg x y => .subReg x y
  | .shiftRight x _ => .shiftRight x 0
  | .subnReg x y => .subnReg x y
  | .shiftLeft x _ => .shiftLeft x 0
  | .skipRegNe x y => .skipRegNe x y
  | .loadIndex nnn => .loadIndex nnn
  | .jumpOffset nnn => .jumpOffset nnn
  | .random x kk => .random x kk
  | .draw x y n => .draw x y n
  | .skipKey x => .skipKey x
  | .skipNotKey x => .skipNotKey x
  | .getDelay x => .getDelay x
  | .waitKey x => .waitKey x
  | .setDelay x => .setDelay x
  | .setSound x => .setSound x
  | .addIndex x => .addIndex x
  | .fontChar x => .fontChar x
  | .storeBcd x => .storeBcd x
  | .storeRegisters x => .storeRegisters x
  | .loadRegisters x => .loadRegisters x

/-- The word an assembler emits for an instruction (R140). -/
def asmWord (i : Instr) : Word := encode (asmForm i)

end Sys2Proof
end

