-- ==== Sys2Proof/Machine/State.lean ====
section
/-! DEFINITION. The machine's state as the spec gives it (10_state.md rules R30 to R43), the environment the
model sets beside it (log entries 1 and 2), the typed faults (60_exceptions.md rule R412), the status output (R410)
and the state after Construct of an empty program (R49, R451). -/

namespace Sys2Proof.Machine

/-- Memory as a list of (address, byte) pairs; an address not listed holds its byte after Construct of an empty
program (`Memory.background`). The canonical form is `Memory.wf`. -/
abbrev Memory := List Host.Cell

/-- The frame buffer, 32 rows of 64 one-bit pixels: bit `c` of row `r` is `FB[r][c]` (R43, R9; log entry
10). -/
abbrev FrameBuffer := Vector (BitVec 64) 32

/-- The architectural state of the core, the spec's whole state record (R30, R48): KEY and RND are inputs of a
tick and no field of it. -/
structure MachineState where
  /-- `M[0..4095]` (R70). -/
  mem : Memory
  /-- `FB[0..31][0..63]` (R43). -/
  fb : FrameBuffer
  /-- `V[0..15]`, VF among them (R32, R33). -/
  v : Vector Byte 16
  /-- `I` (R39). -/
  index : Word
  /-- `PC` (R35). -/
  pc : Word
  /-- `STK[0..15]` (R40). -/
  stk : Vector Word 16
  /-- `SP`, the number of occupied stack entries, 0 to 16 (R40). -/
  sp : Fin 17
  /-- `DT` (R41). -/
  dt : Byte
  /-- `ST` (R41). -/
  st : Byte
  deriving DecidableEq, Repr

/-- What stands outside the core and no part of its state: the parameters it was built with, and the caller, who
supplies KEY and RND with every tick (R8, R42, R281). It is the model's own: the host's step takes no argument but
the state (log entries 1 and 2). -/
structure Environment where
  /-- The parameters of R8, which no tick changes (log entry 2). -/
  params : Params
  /-- The inputs the caller will supply with the coming ticks, the next tick's first (R42; log entry 1). -/
  inputs : List TickInput
  /-- The number of the free value a tick takes when no input is lined up (log entry 1). -/
  tickCount : Nat
  deriving DecidableEq, Repr

/-- The core's state and its environment side by side. A tick is a function of the core's state, the parameters and
the inputs of that tick alone (R220): see `tickOf`. -/
structure State extends MachineState, Environment
  deriving DecidableEq, Repr

/-- The typed faults (R412). A fault ends the tick and the run, and changes no state (R411, R422). Stopping is
safe: the reference's host may go on where the model stops (decision D7; log entry 5). -/
inductive Fault where
  /-- Raised by the dispatch when the word reaches the placeholder (R119, R413). Safe. -/
  | decodeFault (iw : Word)
  /-- Raised by call when SP = 16 (R228, R414). Safe. -/
  | stackOverflow
  /-- Raised by return when SP = 0 (R226, R415). Safe. -/
  | stackUnderflow
  /-- Raised by draw, store-bcd, store-registers and load-registers when their range leaves 0x000..0xFFF
  (R76, R416). Safe. -/
  | addressOutOfRange (base : Word) (len : Nat)
  /-- Raised by fetch when PC fails the check of R223 (R417). Safe. -/
  | pcFault (pc : Word)
  /-- Raised by skip-key and skip-not-key when V[x] > 0xF (R340, R341, R418). Safe. -/
  | keyIndexFault (value : Byte)
  /-- Raised by Construct alone, never by a tick: the program does not fit (R419, R451). Safe. -/
  | constructionOverflow (len : Nat)
  deriving DecidableEq, Repr

/-- The reasons to refuse an instruction. No instruction of this model is refused. -/
inductive Refusal where
  /-- Raised by an arm of exec whose instruction has no meaning yet; no arm raises it. Safe. -/
  | notModelled (mnemonic : String)
  deriving DecidableEq, Repr

/-- The status output of a tick (R410): it is an output, not state. -/
inductive Status where
  | ok
  | fault (f : Fault)
  deriving DecidableEq, Repr

/-- The state after Construct of an empty program with the default font (R49, R451; log entries 3, 4 and 8):
the font stands in what an unlisted address reads as. -/
def State.reset : State where
  mem := []
  fb := Vector.replicate 32 0
  v := Vector.replicate 16 0
  index := 0
  pc := 0x200
  stk := Vector.replicate 16 0
  sp := 0
  dt := 0
  st := 0
  params := Params.default
  inputs := []
  tickCount := 0

end Sys2Proof.Machine
end

