-- ==== Sys2Proof/Machine/Ops.lean ====
section
/-! DEFINITION. The named operations over memory, registers, the stack, the frame buffer and the timers, the
index-relative range check, raising a fault, and what the tick does around a handler (20_memory.md,
10_state.md, 60_exceptions.md, 41_control_flow.md). -/

namespace Sys2Proof.Machine

/-- The result of a step or of an instruction's meaning. -/
abbrev Result := Host.Outcome State Fault Refusal

/-! ## Memory -/

/-- Glyphs 0 to 7 of the default FONT, five bytes a glyph (R44; log entry 3). -/
def fontLow : List Byte :=
  [0xF0, 0x90, 0x90, 0x90, 0xF0] ++ [0x20, 0x60, 0x20, 0x20, 0x70] ++
  [0xF0, 0x10, 0xF0, 0x80, 0xF0] ++ [0xF0, 0x10, 0xF0, 0x10, 0xF0] ++
  [0x90, 0x90, 0xF0, 0x10, 0x10] ++ [0xF0, 0x80, 0xF0, 0x10, 0xF0] ++
  [0xF0, 0x80, 0xF0, 0x90, 0xF0] ++ [0xF0, 0x10, 0x20, 0x40, 0x40]

/-- Glyphs 8 to F of the default FONT (R44; log entry 3). -/
def fontHigh : List Byte :=
  [0xF0, 0x90, 0xF0, 0x90, 0xF0] ++ [0xF0, 0x90, 0xF0, 0x10, 0xF0] ++
  [0xF0, 0x90, 0xF0, 0x90, 0x90] ++ [0xE0, 0x90, 0xE0, 0x90, 0xE0] ++
  [0xF0, 0x80, 0x80, 0x80, 0xF0] ++ [0xE0, 0x90, 0x90, 0x90, 0xE0] ++
  [0xF0, 0x80, 0xF0, 0x80, 0xF0] ++ [0xF0, 0x80, 0xF0, 0x80, 0x80]

/-- The default of parameter FONT, 80 bytes (R8, R44). -/
def defaultFont : List Byte := fontLow ++ fontHigh

/-- What an unlisted address reads as: the font at 0x000..0x04F, 0 everywhere else (R49, R79). -/
def Memory.background (a : Nat) : Byte := defaultFont.getD a 0

/-- `MemRead(a, 1)` (R13). No rule reads an address above 0xFFF (log entry 13). -/
def Memory.read : Memory → Nat → Byte
  | [], a => Memory.background a
  | (k, b) :: m, a => if k = a then b else Memory.read m a

/-- Put a cell before the first cell of a greater or equal address. -/
def Memory.insertCell (c : Host.Cell) : Memory → Memory
  | [] => [c]
  | d :: m => if c.1 ≤ d.1 then c :: d :: m else d :: Memory.insertCell c m

/-- `MemWrite(a, 1, b)` (R13, R78): the cell of `a` is replaced, and dropped where `b` is what the unlisted
address reads as. -/
def Memory.write (m : Memory) (a : Nat) (b : Byte) : Memory :=
  let rest := m.filter fun c => c.1 != a
  if b = Memory.background a then rest else Memory.insertCell (a, b) rest

/-- The bytes at `a`, `a + 1`, …, `len` of them, in rising address order (R73). -/
def Memory.readBytes (m : Memory) (a len : Nat) : List Byte :=
  (List.range len).map fun k => m.read (a + k)

/-- Write bytes at `a`, `a + 1`, … in rising address order (R73). -/
def Memory.writeBytes (m : Memory) (a : Nat) : List Byte → Memory
  | [] => m
  | b :: bs => Memory.writeBytes (m.write a b) (a + 1) bs

/-- The canonical form: addresses strictly rising and inside the address space, and no cell equal to what its
address reads as when unlisted. -/
abbrev Memory.wf (m : Memory) : Prop :=
  m.Pairwise (fun c d => c.1 < d.1) ∧ ∀ c ∈ m, c.1 < 4096 ∧ c.2 ≠ Memory.background c.1

/-- The byte `M[a]` of a state. -/
def State.byteAt (s : State) (a : Nat) : Byte := s.mem.read a

/-! ## Registers -/

/-- `V[r]`. -/
def State.reg (s : State) (r : Reg) : Byte := s.v[r.val]

/-- `V[r] <- b` (R12). No register is hard-wired (R32). -/
def State.setReg (s : State) (r : Reg) (b : Byte) : State := { s with v := s.v.set r.val b }

/-- `I <- w`. -/
def State.setIndex (s : State) (w : Word) : State := { s with index := w }

/-- `PC <- w` (R12). -/
def State.setPc (s : State) (w : Word) : State := { s with pc := w }

/-- `DT <- b`. -/
def State.setDt (s : State) (b : Byte) : State := { s with dt := b }

/-- `ST <- b`. -/
def State.setSt (s : State) (b : Byte) : State := { s with st := b }

/-- Memory replaced by `m`. -/
def State.setMem (s : State) (m : Memory) : State := { s with mem := m }

/-- The frame buffer replaced by `fb`. -/
def State.setFb (s : State) (fb : FrameBuffer) : State := { s with fb := fb }

/-- The sixteen registers replaced by `v`. -/
def State.setRegs (s : State) (v : Vector Byte 16) : State := { s with v := v }

/-- `V[0..x]` replaced by bytes of memory, `V[i] <- M[a + i]`; the registers above `x` keep theirs (R315). -/
def State.loadRegs (s : State) (x : Reg) (a : Nat) : State :=
  s.setRegs (Vector.ofFn fun r => if r ≤ x then s.mem.read (a + r.val) else s.reg r)

/-- The values `V[0], …, V[x]` (R314). -/
def State.regsUpTo (s : State) (x : Reg) : List Byte := s.v.toList.take (x.val + 1)

/-! ## Raising a fault

There is no trap entry inside the core: a fault saves nothing, transfers control nowhere and leaves the state of
before the tick (R411, R421); there is no return from a trap (R422). This one operation is how a fault is
raised. -/

/-- `raise F(info)`: the tick ends with the fault, and none of its writes happen (R14, R411). -/
def raise (f : Fault) : Result := .fault f

/-! ## The stack (R40; decision D14) -/

/-- `STK[j]`. -/
def State.stackEntry (s : State) (j : Fin 16) : Word := s.stk[j.val]

/-- `STK[SP] <- w; SP <- SP + 1`, or StackOverflow when SP = 16 (R228). -/
def State.push (s : State) (w : Word) : Result :=
  if h : s.sp.val < 16 then
    .next { s with stk := s.stk.set s.sp.val w h, sp := ⟨s.sp.val + 1, Nat.succ_lt_succ h⟩ }
  else raise .stackOverflow

/-- `SP <- SP - 1; PC <- STK[SP]`, or StackUnderflow when SP = 0; the entry stays as it was (R226). -/
def State.popToPc (s : State) : Result :=
  if h : s.sp.val = 0 then raise .stackUnderflow
  else
    have hlt : s.sp.val - 1 < 16 := by omega
    .next { s with pc := s.stackEntry ⟨s.sp.val - 1, hlt⟩, sp := ⟨s.sp.val - 1, by omega⟩ }

/-! ## The frame buffer (R43) -/

/-- The pixel `FB[r][c]`. -/
def FrameBuffer.pixel (fb : FrameBuffer) (r : Fin 32) (c : Fin 64) : Bool := fb[r.val].getLsbD c.val

/-- `FB[r][c] <- FB[r][c] ^ 1`. -/
def FrameBuffer.flip (fb : FrameBuffer) (r : Fin 32) (c : Fin 64) : FrameBuffer :=
  fb.set r.val (fb[r.val] ^^^ BitVec.twoPow 64 c.val)

/-- Every pixel 0 (R201). -/
def FrameBuffer.clear : FrameBuffer := Vector.replicate 32 0

/-- The landing places of a sprite's set bits in drawing order: row `r`, column `c` of the sprite lands on
`FB[(y0 + r) mod 32][(x0 + c) mod 64]` where bit `7 - c` of the row is 1 (R202, R204; log entry 12). -/
def spritePixels (rows : List Byte) (x0 y0 : Nat) : List (Fin 32 × Fin 64) :=
  rows.zipIdx.flatMap fun (row, r) =>
    ((List.range 8).filter fun c => row.getLsbD (7 - c)).map fun c =>
      (Fin.ofNat 32 (y0 + r), Fin.ofNat 64 (x0 + c))

/-- Draw one pixel: it is flipped, and the collision is remembered where it was 1 before (R202, R203). -/
def drawPixel (acc : FrameBuffer × Bool) (p : Fin 32 × Fin 64) : FrameBuffer × Bool :=
  (acc.1.flip p.1 p.2, acc.2 || acc.1.pixel p.1 p.2)

/-- Draw a sprite: the frame buffer after it, and whether any pixel went from 1 to 0 (R202). -/
def drawSprite (fb : FrameBuffer) (rows : List Byte) (x0 y0 : Nat) : FrameBuffer × Bool :=
  (spritePixels rows x0 y0).foldl drawPixel (fb, false)

/-! ## Range check of index-relative accesses -/

/-- The range `base .. base + len - 1` lies inside 0x000..0xFFF; an empty range always does (R76; decision
D17). -/
def rangeFits (base : Word) (len : Nat) : Bool := len == 0 || base.toNat + (len - 1) ≤ 0xFFF

/-- The whole range at I is checked before any byte moves (R76, R416). -/
def withIndexRange (s : State) (len : Nat) (access : Result) : Result :=
  if rangeFits s.index len then access else raise (.addressOutOfRange s.index len)

/-! ## The program counter -/

/-- The pre-advance of the tick, `PC <- a + 2` (R221). -/
def State.preAdvance (s : State) : State := s.setPc (s.pc + 2)

/-- A skip: an extra 2 where the condition holds (R225). -/
def State.skipIf (s : State) (c : Bool) : State := if c then s.setPc (s.pc + 2) else s

/-! ## Tick inputs (R42, R281; log entry 1) -/

/-- KEY and RND of this tick: the first input the host has lined up, else the free values of this tick's
number. -/
def State.input (s : State) : TickInput :=
  match s.inputs with
  | i :: _ => i
  | [] => ⟨Config.freeKey s.tickCount, Config.freeRnd s.tickCount⟩

/-! ## The end of a tick -/

/-- A timer counts down and saturates at 0, `max(t - 1, 0)` (R431). -/
def decayTimer (t : Byte) : Byte := if t = 0 then 0 else t - 1

/-- The timer decay of a tick that does not fault, and the model's own bookkeeping of the inputs: this tick's
input is used up (R431; log entry 1). -/
def State.endTick (s : State) : State :=
  { s with dt := decayTimer s.dt, st := decayTimer s.st, inputs := s.inputs.tail, tickCount := s.tickCount + 1 }

end Sys2Proof.Machine
end

