-- ==== Sys2Proof/Machine/Operands.lean ====
section
/-! DEFINITION. Every operand form of the spec: register values, the immediates of the instruction word,
the index-relative effective address, and the key a register or the key vector names (30_encoding.md rule R105,
43_index_memory.md, 44_keys_timers.md). Nothing is sign-extended (R10). -/

namespace Sys2Proof.Machine

/-- `zext_16(nnn)` (R105). -/
def zextNnn (nnn : Addr12) : Word := nnn.setWidth 16

/-- `zext_16(V[x])` (R311, R312, R233). -/
def zextByte (b : Byte) : Word := b.setWidth 16

/-- The effective address `I + k` of an index-relative access; ranges are checked before use, so nothing wraps
(R76). -/
def State.effAddr (s : State) (k : Nat) : Nat := s.index.toNat + k

/-- The column a sprite starts at, `V[x] mod 64` (R202, R204). -/
def spriteCol (b : Byte) : Nat := b.toNat % 64

/-- The row a sprite starts at, `V[y] mod 32` (R202, R204). -/
def spriteRow (b : Byte) : Nat := b.toNat % 32

/-- Key `k` of the vector is pressed, `KEY[k] == 1` (R42). -/
def keyPressed (key : BitVec 16) (k : Nat) : Bool := key.getLsbD k

/-- The lowest pressed key, `min { k : KEY[k] == 1 }`, where any is pressed (R345). -/
def lowestKey (key : BitVec 16) : Option Nat := (List.range 16).find? (keyPressed key)

/-- The key index of skip-key and skip-not-key: KeyIndexFault where V[x] > 0xF (R340, R341; decision D15). -/
def withKeyIndex (k : Byte) (test : Nat → Result) : Result :=
  if 0xF < k.toNat then raise (.keyIndexFault k) else test k.toNat

/-- The three decimal digits of a byte: hundreds, tens, ones (R313). -/
def bcdDigits (v : Byte) : List Byte :=
  [BitVec.ofNat 8 (v.toNat / 100), BitVec.ofNat 8 (v.toNat / 10 % 10), BitVec.ofNat 8 (v.toNat % 10)]

end Sys2Proof.Machine
end

