-- ==== Sys2Proof/Machine/Flags.lean ====
section
/-! DEFINITION. The ALU with its flag output, and the write-back of result and flag (42_alu.md rules R260 to
R265). VF is the only flag of the architecture (R37). -/

namespace Sys2Proof.Machine

/-- The functions of the ALU (R261). -/
inductive AluFn where
  | pass | addNf | or | and | xor | add | sub | shr | subn | shl
  deriving DecidableEq, Repr

/-- The ALU's outputs: the result, and the flag where `flag_we = 1`; `none` is `flag_we = 0` (R260, R261). -/
structure AluOut where
  res : Byte
  flag : Option Bool
  deriving DecidableEq, Repr

/-- The ALU (R261, R265): results wrap modulo 2^8; the flag is the carry, "no borrow", or the bit shifted
out. -/
def alu (fn : AluFn) (a b : Byte) : AluOut :=
  match fn with
  | .pass => ⟨b, none⟩
  | .addNf => ⟨a + b, none⟩
  | .or => ⟨a ||| b, none⟩
  | .and => ⟨a &&& b, none⟩
  | .xor => ⟨a ^^^ b, none⟩
  | .add => ⟨a + b, some (decide (0xFF < a.toNat + b.toNat))⟩
  | .sub => ⟨a - b, some (decide (b.toNat ≤ a.toNat))⟩
  | .shr => ⟨a >>> 1, some (a.getLsbD 0)⟩
  | .subn => ⟨b - a, some (decide (a.toNat ≤ b.toNat))⟩
  | .shl => ⟨a <<< 1, some (a.getLsbD 7)⟩

/-- A flag as the byte VF receives, `bool(c)` (R11). -/
def flagByte (f : Bool) : Byte := if f then 1 else 0

/-- What VF holds after a flag writer whose destination is VF (R264; decision D9). -/
def vfAsDest (w : VfDestWinner) (res flag : Byte) : Byte :=
  match w with
  | .flag => flag
  | .result => res

/-- The write-back of R263 and R264: the result goes to V[x] and the flag, where there is one, to VF; where the
destination of a flag writer is VF itself, VF_DEST_WINNER decides. -/
def State.writeBack (s : State) (x : Reg) (o : AluOut) : State :=
  match o.flag with
  | none => s.setReg x o.res
  | some f =>
    if x = VF then s.setReg VF (vfAsDest s.params.vfDestWinner o.res (flagByte f))
    else (s.setReg x o.res).setReg VF (flagByte f)

end Sys2Proof.Machine
end

