-- ==== Sys2Proof/Machine/Alu.lean ====
section
/-! DEFINITION. The register-write, logic, arithmetic and shift instructions and random (42_alu.md rules R270
to R281): the ALU on the latched operands, then the write-back. -/

namespace Sys2Proof.Machine

/-- load-imm (R270). -/
def execLoadImm (x : Reg) (kk : Byte) (s : State) : Result :=
  .next (s.writeBack x (alu .pass (s.reg x) kk))

/-- add-imm (R271): no flag. -/
def execAddImm (x : Reg) (kk : Byte) (s : State) : Result :=
  .next (s.writeBack x (alu .addNf (s.reg x) kk))

/-- copy (R272). -/
def execCopy (x y : Reg) (s : State) : Result :=
  .next (s.writeBack x (alu .pass (s.reg x) (s.reg y)))

/-- or (R273): VF is not a flag of the logic instructions (decision D10). -/
def execOrReg (x y : Reg) (s : State) : Result :=
  .next (s.writeBack x (alu .or (s.reg x) (s.reg y)))

/-- and (R274). -/
def execAndReg (x y : Reg) (s : State) : Result :=
  .next (s.writeBack x (alu .and (s.reg x) (s.reg y)))

/-- xor (R275). -/
def execXorReg (x y : Reg) (s : State) : Result :=
  .next (s.writeBack x (alu .xor (s.reg x) (s.reg y)))

/-- add-reg (R276): VF receives the carry. -/
def execAddReg (x y : Reg) (s : State) : Result :=
  .next (s.writeBack x (alu .add (s.reg x) (s.reg y)))

/-- sub-reg (R277): VF receives "no borrow". -/
def execSubReg (x y : Reg) (s : State) : Result :=
  .next (s.writeBack x (alu .sub (s.reg x) (s.reg y)))

/-- shift-right (R278): the operand is V[x]; `y` is ignored (R266). -/
def execShiftRight (x y : Reg) (s : State) : Result :=
  .next (s.writeBack x (alu .shr (s.reg x) (s.reg y)))

/-- subn-reg (R279): VF receives "no borrow" of V[y] - V[x]. -/
def execSubnReg (x y : Reg) (s : State) : Result :=
  .next (s.writeBack x (alu .subn (s.reg x) (s.reg y)))

/-- shift-left (R280): the operand is V[x]; `y` is ignored (R266). -/
def execShiftLeft (x y : Reg) (s : State) : Result :=
  .next (s.writeBack x (alu .shl (s.reg x) (s.reg y)))

/-- random (R281): the tick's random byte under the mask `kk`. -/
def execRandom (x : Reg) (kk : Byte) (s : State) : Result :=
  .next (s.setReg x (s.input.rnd &&& kk))

end Sys2Proof.Machine
end

