-- ==== Sys2Proof/Machine/ControlFlow.lean ====
section
/-! DEFINITION. return, jump, call, the register skips and jump-offset (41_control_flow.md rules R224 to
R233). No transfer checks its target; the next fetch does (R224, R234). -/

namespace Sys2Proof.Machine

/-- return (R226). -/
def execRet (s : State) : Result := s.popToPc

/-- jump (R227). -/
def execJump (nnn : Addr12) (s : State) : Result := .next (s.setPc (zextNnn nnn))

/-- call (R228): PCn is pushed, then PC takes the target. -/
def execCall (nnn : Addr12) (s : State) : Result :=
  match s.push s.pc with
  | .next t => .next (t.setPc (zextNnn nnn))
  | .fault f => .fault f
  | .refused r => .refused r

/-- skip-eq (R229). -/
def execSkipEq (x : Reg) (kk : Byte) (s : State) : Result := .next (s.skipIf (s.reg x == kk))

/-- skip-ne (R230). -/
def execSkipNe (x : Reg) (kk : Byte) (s : State) : Result := .next (s.skipIf (s.reg x != kk))

/-- skip-reg-eq (R231). -/
def execSkipRegEq (x y : Reg) (s : State) : Result := .next (s.skipIf (s.reg x == s.reg y))

/-- skip-reg-ne (R232). -/
def execSkipRegNe (x y : Reg) (s : State) : Result := .next (s.skipIf (s.reg x != s.reg y))

/-- jump-offset (R233): the target is not reduced to 12 bits (decision D13). -/
def execJumpOffset (nnn : Addr12) (s : State) : Result :=
  .next (s.setPc (zextNnn nnn + zextByte (s.reg 0)))

end Sys2Proof.Machine
end

