-- ==== Sys2Proof/Machine/Display.lean ====
section
/-! DEFINITION. clear-screen and draw (40_display.md). Every meaning of the files of this folder runs on the
state after the pre-advance, so its `pc` is PCn (R36, R221; log entry 7). -/

namespace Sys2Proof.Machine

/-- clear-screen (R201). -/
def execClearScreen (s : State) : Result := .next (s.setFb FrameBuffer.clear)

/-- draw (R202 to R204): the range check, then the sprite, then VF. -/
def execDraw (x y : Reg) (n : Nat) (s : State) : Result :=
  withIndexRange s n
    (let rows := s.mem.readBytes (s.effAddr 0) n
     let d := drawSprite s.fb rows (spriteCol (s.reg x)) (spriteRow (s.reg y))
     .next ((s.setFb d.1).setReg VF (flagByte d.2)))

end Sys2Proof.Machine
end

