-- ==== Sys2Proof/Machine/IndexMemory.lean ====
section
/-! DEFINITION. The instructions over I and memory (43_index_memory.md). None changes I as a side effect of an
access (decision D18). -/

namespace Sys2Proof.Machine

/-- load-index (R310). -/
def execLoadIndex (nnn : Addr12) (s : State) : Result := .next (s.setIndex (zextNnn nnn))

/-- add-index (R311): modulo 2^16, VF not written (decision D19). -/
def execAddIndex (x : Reg) (s : State) : Result := .next (s.setIndex (s.index + zextByte (s.reg x)))

/-- font-char (R312): V[x] is not masked (decision D20). -/
def execFontChar (x : Reg) (s : State) : Result := .next (s.setIndex (zextByte (s.reg x) * 5))

/-- store-bcd (R313). -/
def execStoreBcd (x : Reg) (s : State) : Result :=
  withIndexRange s 3 (.next (s.setMem (s.mem.writeBytes (s.effAddr 0) (bcdDigits (s.reg x)))))

/-- store-registers (R314). -/
def execStoreRegisters (x : Reg) (s : State) : Result :=
  withIndexRange s (x.val + 1) (.next (s.setMem (s.mem.writeBytes (s.effAddr 0) (s.regsUpTo x))))

/-- load-registers (R315). -/
def execLoadRegisters (x : Reg) (s : State) : Result :=
  withIndexRange s (x.val + 1) (.next (s.loadRegs x (s.effAddr 0)))

end Sys2Proof.Machine
end

