-- ==== Sys2Proof/Machine/KeysTimers.lean ====
section
/-! DEFINITION. The key and timer instructions (44_keys_timers.md). The timer decay follows in the same tick
(R431). -/

namespace Sys2Proof.Machine

/-- skip-key (R340). -/
def execSkipKey (x : Reg) (s : State) : Result :=
  withKeyIndex (s.reg x) fun k => .next (s.skipIf (keyPressed s.input.key k))

/-- skip-not-key (R341). -/
def execSkipNotKey (x : Reg) (s : State) : Result :=
  withKeyIndex (s.reg x) fun k => .next (s.skipIf (!keyPressed s.input.key k))

/-- get-delay (R342): DT as it was before this tick's decay. -/
def execGetDelay (x : Reg) (s : State) : Result := .next (s.setReg x s.dt)

/-- set-delay (R343). -/
def execSetDelay (x : Reg) (s : State) : Result := .next (s.setDt (s.reg x))

/-- set-sound (R344). -/
def execSetSound (x : Reg) (s : State) : Result := .next (s.setSt (s.reg x))

/-- What wait-key does with the lowest pressed key: V[x] receives it; where none is pressed PC goes back to the
instruction's own address (R345). -/
def State.takeKey (s : State) (x : Reg) : Option Nat → State
  | some k => s.setReg x (BitVec.ofNat 8 k)
  | none => s.setPc (s.pc - 2)

/-- wait-key (R345, R346): level-sensitive, polling. -/
def execWaitKey (x : Reg) (s : State) : Result := .next (s.takeKey x (lowestKey s.input.key))

end Sys2Proof.Machine
end

