-- ==== Sys2Proof/Machine/Fetch.lean ====
section
/-! DEFINITION. The PC check and the fetch (41_control_flow.md rules R222, R223), and where a word is placed for
the next fetch to find it. -/

namespace Sys2Proof.Machine

/-- The check of R223: STRICT wants an even PC in 0x200..0xFFE, BOUNDS a PC of at most 0xFFE. -/
def pcFetchable (check : PcCheck) (pc : Word) : Bool :=
  match check with
  | .strict => pc.toNat % 2 == 0 && (0x200 ≤ pc.toNat && pc.toNat ≤ 0xFFE)
  | .bounds => pc.toNat ≤ 0xFFE

/-- PC passes the check of this machine's PC_CHECK (R223). -/
def State.canFetch (s : State) : Bool := pcFetchable s.params.pcCheck s.pc

/-- The two bytes at PC and PC + 1 (R222). -/
def State.fetchBytes (s : State) : List Byte := [s.byteAt s.pc.toNat, s.byteAt (s.pc.toNat + 1)]

/-- The fetched word `{M[PC], M[PC+1]}` (R72, R222). -/
def State.fetchWord (s : State) : Word := wordOfBytes (s.byteAt s.pc.toNat) (s.byteAt (s.pc.toNat + 1))

/-- The instruction the dispatch selects for the fetched bytes; none is the placeholder (R116, R117, R119). -/
def State.fetchInstr (s : State) : Option Instr :=
  match decode s.params.decodeMode s.fetchBytes with
  | .ok (i, _) => some i
  | .error _ => none

/-- The address a word is placed at for the next fetch: PC, or 0x200 where PC is not fetchable (log entry
8). -/
def State.placeAddr (s : State) : Word := if s.canFetch then s.pc else 0x200

/-- Two bytes stored where the next fetch reads them, PC moved to them where it could not be fetched from. -/
def State.placeWord (s : State) (iw : Word) : State :=
  (s.setMem (s.mem.writeBytes s.placeAddr.toNat (bytesOfWord iw))).setPc s.placeAddr

end Sys2Proof.Machine
end

