-- ==== Sys2Proof/Machine/Step.lean ====
section
/-! DEFINITION. One tick: PC check, fetch, pre-advance, decode and dispatch, handler, timer decay
(41_control_flow.md rule R220), and where the host places an instruction word. -/

namespace Sys2Proof.Machine

/-- What a tick makes of its handler's answer: the timer decay follows a handler that did not fault (R220 step
5, R431). -/
def finishTick : Result → Result
  | .next t => .next t.endTick
  | .fault f => .fault f
  | .refused r => .refused r

/-- One tick (R220). The checks come in tick order: PcFault, DecodeFault, then the handler's (R420). -/
def step (s : State) : Host.Outcome State Fault Refusal :=
  if s.canFetch then
    match s.fetchInstr with
    | some i => finishTick (exec i s.preAdvance)
    | none => raise (.decodeFault s.fetchWord)
  else raise (.pcFault s.pc)

/-- `s` with a word of the opcode table stored where the next step fetches (log entry 8). -/
def State.withFetchWord (s : State) (nbits w : Nat) : State := s.placeWord (tableWord nbits w)

end Sys2Proof.Machine
end

