-- ==== Sys2Proof/Machine/Boundary.lean ====
section
/-! DEFINITION. The host's boundary operations: Construct (70_reset_and_hazards.md rules R450, R451), Tick with
its status output (60_exceptions.md rules R410, R411) and the read ports (R433). -/

namespace Sys2Proof.Machine

/-- Construct (R451): the font at 0x000, the program at 0x200, everything else 0 and PC = 0x200, or
ConstructionOverflow where the program does not fit. FONT is any 80 bytes (R8). -/
def construct (p : Params) (font : Vector Byte 80) (prog : List Byte) : Except Fault State :=
  if prog.length ≤ 3584 then
    .ok { State.reset with
      mem := Memory.writeBytes (Memory.writeBytes [] 0 font.toList) 0x200 prog
      params := p }
  else .error (.constructionOverflow prog.length)

/-- The default FONT as a table of 80 bytes (R8, R44). -/
def defaultFontTable : Vector Byte 80 := Vector.ofFn fun k => defaultFont.getD k.val 0

/-- Tick as the host calls it: the state after, and the status. A faulting tick leaves the state as it was (R410,
R411; log entries 5 and 6). No answer would be a refusal, which no tick makes. -/
def tick (s : State) : Option (State × Status) :=
  match step s with
  | .next t => some (t, .ok)
  | .fault f => some (s, .fault f)
  | .refused _ => none

/-- The tick as R220 gives it: its inputs are the core's state, KEY and RND (and the parameters of R8), its outputs
the core's next state and the status; nothing else goes in or comes out (R30, R42). -/
def tickOf (p : Params) (m : MachineState) (i : TickInput) : Option (MachineState × Status) :=
  (tick { toMachineState := m, params := p, inputs := [i], tickCount := 0 }).map fun r =>
    (r.1.toMachineState, r.2)

/-- The numeric status codes (R410; decision D27). -/
def statusCode : Status → Nat
  | .ok => 0
  | .fault (.decodeFault _) => 1
  | .fault .stackOverflow => 2
  | .fault .stackUnderflow => 3
  | .fault (.addressOutOfRange _ _) => 4
  | .fault (.pcFault _) => 5
  | .fault (.keyIndexFault _) => 6
  | .fault (.constructionOverflow _) => 7

/-- The host supplies KEY and RND with a tick: they come before whatever was lined up (R42, R453). -/
def State.supply (s : State) (i : TickInput) : State := { s with inputs := i :: s.inputs }

/-- ReadFrameBuffer (R200, R433). -/
def readFrameBuffer (s : State) (r : Fin 32) (c : Fin 64) : Bool := s.fb.pixel r c

/-- ReadDelayTimer (R430, R433). -/
def readDelayTimer (s : State) : Byte := s.dt

/-- ReadSoundTimer (R430, R433). -/
def readSoundTimer (s : State) : Byte := s.st

end Sys2Proof.Machine
end

