-- ==== Sys2Proof/Safety.lean ====
section
/-! DEFINITION. The terms the statements use: what an instruction leaves unchanged, the invariant of the
machine, the table of program counters of rule R224, the registers an instruction writes (R34, R38), and the
pointwise reading of draw (R203, R204). -/

namespace Sys2Proof.Machine

/-! ## Frames -/

/-- Every register is unchanged except those of `changed`. -/
def RegsKept (s t : State) (changed : Reg → Prop) : Prop := ∀ r, ¬ changed r → t.reg r = s.reg r

/-- Every byte of memory reads as before. -/
def MemKept (s t : State) : Prop := ∀ a, t.byteAt a = s.byteAt a

/-- Every byte of memory outside `base .. base + len - 1` reads as before. -/
def MemKeptOutside (s t : State) (base len : Nat) : Prop :=
  ∀ a, ¬ (base ≤ a ∧ a < base + len) → t.byteAt a = s.byteAt a

/-- Every pixel is as before. -/
def ScreenKept (s t : State) : Prop := ∀ r c, t.fb.pixel r c = s.fb.pixel r c

/-- SP and every stack entry are as before. -/
def StackKept (s t : State) : Prop := t.sp = s.sp ∧ ∀ j, t.stackEntry j = s.stackEntry j

/-- Both timers are as before. -/
def TimersKept (s t : State) : Prop := t.dt = s.dt ∧ t.st = s.st

/-- The environment is as before. -/
def ModelKept (s t : State) : Prop :=
  t.params = s.params ∧ t.inputs = s.inputs ∧ t.tickCount = s.tickCount

/-- Memory, screen, stack, timers and the environment are as before. -/
def StorageKept (s t : State) : Prop :=
  MemKept s t ∧ ScreenKept s t ∧ StackKept s t ∧ TimersKept s t ∧ ModelKept s t

/-- Nothing changes but registers of `changed`. -/
def OnlyRegs (s t : State) (changed : Reg → Prop) : Prop :=
  RegsKept s t changed ∧ t.index = s.index ∧ t.pc = s.pc ∧ StorageKept s t

/-- Nothing changes but PC. -/
def OnlyPc (s t : State) : Prop :=
  RegsKept s t (fun _ => False) ∧ t.index = s.index ∧ StorageKept s t

/-- Nothing changes but I. -/
def OnlyIndex (s t : State) : Prop :=
  RegsKept s t (fun _ => False) ∧ t.pc = s.pc ∧ StorageKept s t

/-- Nothing changes but the bytes `base .. base + len - 1` of memory. -/
def OnlyMem (s t : State) (base len : Nat) : Prop :=
  MemKeptOutside s t base len ∧ RegsKept s t (fun _ => False) ∧ t.index = s.index ∧ t.pc = s.pc ∧
    ScreenKept s t ∧ StackKept s t ∧ TimersKept s t ∧ ModelKept s t

/-- Nothing changes but pixels and registers of `changed`. -/
def OnlyScreenAndRegs (s t : State) (changed : Reg → Prop) : Prop :=
  RegsKept s t changed ∧ MemKept s t ∧ t.index = s.index ∧ t.pc = s.pc ∧
    StackKept s t ∧ TimersKept s t ∧ ModelKept s t

/-- Nothing changes but PC, SP and stack entries of `changed`. -/
def OnlyPcAndStack (s t : State) (changed : Fin 16 → Prop) : Prop :=
  (∀ j, ¬ changed j → t.stackEntry j = s.stackEntry j) ∧ RegsKept s t (fun _ => False) ∧ MemKept s t ∧
    t.index = s.index ∧ ScreenKept s t ∧ TimersKept s t ∧ ModelKept s t

/-- Nothing changes but DT and ST. -/
def OnlyTimers (s t : State) : Prop :=
  RegsKept s t (fun _ => False) ∧ MemKept s t ∧ t.index = s.index ∧ t.pc = s.pc ∧ ScreenKept s t ∧
    StackKept s t ∧ ModelKept s t

/-! ## The invariant of the machine -/

/-- What holds after Construct and after every tick: memory is in its canonical form; PC is at most 0x10FE, the
highest target any instruction computes (R233, decision D11); no stack entry is above 0x1000, the highest
PCn (R226, R228); under PC_CHECK = STRICT every occupied entry is the even address after an
instruction at 0x200 or above (R35, R223, R228). -/
structure State.Inv (s : State) : Prop where
  memCanonical : s.mem.wf
  pcBound : s.pc.toNat ≤ 0x10FE
  stackBound : ∀ j, (s.stackEntry j).toNat ≤ 0x1000
  returnsAligned : s.params.pcCheck = .strict →
    ∀ j : Fin 16, j.val < s.sp.val → (s.stackEntry j).toNat % 2 = 0 ∧ 0x202 ≤ (s.stackEntry j).toNat

/-! ## Tables of the spec -/

/-- PC after a tick of the instruction at `s.pc` that does not fault (R224). -/
def pcAfterTick (i : Instr) (s : State) : Word :=
  match i with
  | .skipEq x kk => if s.reg x = kk then s.pc + 4 else s.pc + 2
  | .skipNe x kk => if s.reg x ≠ kk then s.pc + 4 else s.pc + 2
  | .skipRegEq x y => if s.reg x = s.reg y then s.pc + 4 else s.pc + 2
  | .skipRegNe x y => if s.reg x ≠ s.reg y then s.pc + 4 else s.pc + 2
  | .skipKey x => if s.input.key.getLsbD (s.reg x).toNat = true then s.pc + 4 else s.pc + 2
  | .skipNotKey x => if s.input.key.getLsbD (s.reg x).toNat = false then s.pc + 4 else s.pc + 2
  | .jump nnn => nnn.setWidth 16
  | .call nnn => nnn.setWidth 16
  | .ret => if h : s.sp.val - 1 < 16 then s.stackEntry ⟨s.sp.val - 1, h⟩ else s.pc
  | .jumpOffset nnn => nnn.setWidth 16 + (s.reg 0).setWidth 16
  | .waitKey _ => if s.input.key = 0 then s.pc else s.pc + 2
  | _ => s.pc + 2

/-- The general registers an instruction may write, VF as a flag among them (R34, R38). -/
def writesReg (i : Instr) (r : Reg) : Bool :=
  match i with
  | .loadImm x _ => r == x
  | .addImm x _ => r == x
  | .copy x _ => r == x
  | .orReg x _ => r == x
  | .andReg x _ => r == x
  | .xorReg x _ => r == x
  | .addReg x _ => r == x || r == VF
  | .subReg x _ => r == x || r == VF
  | .subnReg x _ => r == x || r == VF
  | .shiftRight x _ => r == x || r == VF
  | .shiftLeft x _ => r == x || r == VF
  | .random x _ => r == x
  | .draw _ _ _ => r == VF
  | .getDelay x => r == x
  | .waitKey x => r == x
  | .loadRegisters x => decide (r ≤ x)
  | _ => false

/-- The instruction reads KEY or RND (R42, R281). -/
def readsInput (i : Instr) : Bool :=
  match i with
  | .skipKey _ => true
  | .skipNotKey _ => true
  | .waitKey _ => true
  | .random _ _ => true
  | _ => false

/-- The instruction writes a flag to VF with VF as its destination (R264). -/
def flagWriterIntoVf (i : Instr) : Bool :=
  match i with
  | .addReg x _ => x == VF
  | .subReg x _ => x == VF
  | .subnReg x _ => x == VF
  | .shiftRight x _ => x == VF
  | .shiftLeft x _ => x == VF
  | _ => false

/-- The index-relative range an instruction accesses at I, in bytes; 0 where it accesses none (R75). -/
def accessLen (i : Instr) : Nat :=
  match i with
  | .draw _ _ n => n
  | .storeBcd _ => 3
  | .storeRegisters x => x.val + 1
  | .loadRegisters x => x.val + 1
  | _ => 0

/-- `t` is `s` after a flag writer of destination `x` with this result and flag: V[x] and VF where they are two
registers, what VF_DEST_WINNER says where they are one, and nothing else (R263, R264). -/
def FlagWrite (s t : State) (x : Reg) (res flag : Byte) : Prop :=
  (x ≠ VF → t.reg x = res ∧ t.reg VF = flag) ∧
  (x = VF → s.params.vfDestWinner = .flag → t.reg VF = flag) ∧
  (x = VF → s.params.vfDestWinner = .result → t.reg VF = res) ∧
  OnlyRegs s t (fun r => r = x ∨ r = VF)

/-- Words the mux sends to the placeholder under DECODE_MODE = MUX (R131). -/
def illegalUnderMux (f : Fields) : Prop :=
  (f.op = 0x0 ∧ f.n ∉ [0x0, 0xE]) ∨ (f.op = 0x8 ∧ f.n ∈ [0x8, 0x9, 0xA, 0xB, 0xC, 0xD, 0xF]) ∨
  (f.op = 0xE ∧ f.n ∉ [0x1, 0xE]) ∨
  (f.op = 0xF ∧ f.kk ∉ [0x07, 0x0A, 0x15, 0x18, 0x1E, 0x29, 0x33, 0x55, 0x65])

/-- Words that are illegal under DECODE_MODE = STRICT beside those of MUX (R131). -/
def illegalUnderStrictAlso (iw : Word) (f : Fields) : Prop :=
  (f.op = 0x0 ∧ iw ∉ [0x00E0, 0x00EE]) ∨ (f.op ∈ [0x5, 0x9] ∧ f.n ≠ 0x0) ∨
  (f.op = 0xE ∧ f.kk ∉ [0x9E, 0xA1])

/-- The aliases: words that execute under MUX and fault under STRICT (R132). -/
def aliasWord (iw : Word) (f : Fields) : Prop :=
  (f.op = 0x0 ∧ f.n = 0x0 ∧ iw ≠ 0x00E0) ∨ (f.op = 0x0 ∧ f.n = 0xE ∧ iw ≠ 0x00EE) ∨
  (f.op = 0x5 ∧ f.n ≠ 0x0) ∨ (f.op = 0x9 ∧ f.n ≠ 0x0) ∨
  (f.op = 0xE ∧ f.n = 0xE ∧ f.y ≠ 0x9) ∨ (f.op = 0xE ∧ f.n = 0x1 ∧ f.y ≠ 0xA)

/-- Why a tick of `s` stopped with a fault (R412, R414 to R418, R420). -/
def faultCause (s : State) : Fault → Prop
  | .pcFault p => s.canFetch = false ∧ p = s.pc
  | .decodeFault iw => s.canFetch = true ∧ s.fetchInstr = none ∧ iw = s.fetchWord
  | .stackOverflow => s.canFetch = true ∧ (∃ nnn, s.fetchInstr = some (.call nnn)) ∧ s.sp = 16
  | .stackUnderflow => s.canFetch = true ∧ s.fetchInstr = some .ret ∧ s.sp = 0
  | .addressOutOfRange base len => s.canFetch = true ∧ (∃ i, s.fetchInstr = some i ∧ len = accessLen i) ∧
      base = s.index ∧ 0 < len ∧ 0xFFF < s.index.toNat + len - 1
  | .keyIndexFault v => s.canFetch = true ∧
      (∃ x, (s.fetchInstr = some (.skipKey x) ∨ s.fetchInstr = some (.skipNotKey x)) ∧ v = s.reg x) ∧
      0xF < v.toNat
  | .constructionOverflow _ => False

/-! ## draw, read pixel by pixel -/

/-- The sprite bit that lands on the pixel of row `pr` and column `pc` when `n` rows at I are drawn from
column `x0` and row `y0`: row `(pr - y0) mod 32` and column `(pc - x0) mod 64` of the sprite, where
the sprite reaches that far (R203, R204). -/
def spriteBitAt (s : State) (n x0 y0 : Nat) (pr : Fin 32) (pc : Fin 64) : Bool :=
  let r := (pr.val + 32 - y0) % 32
  let c := (pc.val + 64 - x0) % 64
  decide (r < n ∧ c < 8) && (s.byteAt (s.index.toNat + r)).getLsbD (7 - c)

/-- States that differ in the inputs of the coming ticks only (R42; log entry 1). -/
def State.withInputs (s : State) (inputs : List TickInput) (n : Nat) : State :=
  { s with inputs := inputs, tickCount := n }

/-- A machine with other parameters (R8). -/
def State.withParams (s : State) (p : Params) : State := { s with params := p }

/-- An answer with its next state changed by `f`. -/
def mapNext (f : State → State) : Result → Result
  | .next t => .next (f t)
  | .fault r => .fault r
  | .refused r => .refused r

end Sys2Proof.Machine
end

