-- ==== Sys2Proof/Certificates/Slice0/Obligations.lean ====
section
/-! DEFINITION. The statements for the provers, in the order of OBLIGATIONS.json. A statement about `exec`
speaks of the state after the pre-advance, so its `s.pc` is PCn (R36, R221). -/

open Sys2Proof Sys2Proof.Machine

/-! ## Construct and reset -/

/-- The state after reset is what Construct makes of an empty program with the default parameters and font. The
model's choice of its own fields (log entries 1, 2, 3, 8) is part of it. -/
def Obligations.ResetIsConstructOfNothing : Prop :=
  construct Params.default defaultFontTable [] = .ok State.reset

/-- R451: what Construct leaves in every field of the spec's, when it fails, and what an empty program's first fetch
meets. That the state carries the parameters beside the spec's fields is the model's choice (log entry 2). -/
def Obligations.ConstructFillsEveryField : Prop :=
  ∀ (p : Params) (font : Vector Byte 80) (prog : List Byte),
    (3584 < prog.length → construct p font prog = .error (.constructionOverflow prog.length)) ∧
    (prog.length ≤ 3584 → ∃ t, construct p font prog = .ok t ∧
      (∀ a (h : a < 80), t.byteAt a = font[a]) ∧
      (∀ a, 0x50 ≤ a → a < 0x200 → t.byteAt a = 0) ∧
      (∀ k (h : k < prog.length), t.byteAt (0x200 + k) = prog[k]) ∧
      (∀ a, 0x200 + prog.length ≤ a → a ≤ 0xFFF → t.byteAt a = 0) ∧
      (∀ r, t.reg r = 0) ∧ t.index = 0 ∧ t.sp = 0 ∧ (∀ j, t.stackEntry j = 0) ∧ t.dt = 0 ∧ t.st = 0 ∧
      (∀ r c, t.fb.pixel r c = false) ∧ t.pc = 0x200 ∧ t.params = p) ∧
    (∀ t, construct p font [] = .ok t → t.fetchWord = 0x0000 ∧
      (p.decodeMode = .mux → t.fetchInstr = some .clearScreen) ∧
      (p.decodeMode = .strict → step t = .fault (.decodeFault 0x0000)))

/-! ## Decoder, mux and encoder -/

/-- R101: the six fields are the named slices of the word. -/
def Obligations.FieldsAreSlicesOfTheWord : Prop :=
  ∀ iw : Word, let f := decodeFields iw
    f.op.toNat = iw.toNat / 4096 ∧ f.x.toNat = iw.toNat / 256 % 16 ∧ f.y.toNat = iw.toNat / 16 % 16 ∧
    f.n.toNat = iw.toNat % 16 ∧ f.kk.toNat = iw.toNat % 256 ∧ f.nnn.toNat = iw.toNat % 4096

/-- R130: in either mode the two-level mux selects a handler exactly when the word has the bits of its row. -/
def Obligations.MuxFollowsTheOpcodeMap : Prop :=
  ∀ (mode : DecodeMode) (iw : Word) (h : Handler),
    dispatch mode iw = some h ↔ selectsRow mode h iw = true

/-- R131: the words that raise DecodeFault, under each mode. -/
def Obligations.IllegalWordsRaiseDecodeFault : Prop :=
  ∀ s : State, s.canFetch = true →
    (s.params.decodeMode = .mux →
      (step s = .fault (.decodeFault s.fetchWord) ↔ illegalUnderMux (decodeFields s.fetchWord))) ∧
    (s.params.decodeMode = .strict →
      (step s = .fault (.decodeFault s.fetchWord) ↔
        illegalUnderMux (decodeFields s.fetchWord) ∨
        illegalUnderStrictAlso s.fetchWord (decodeFields s.fetchWord)))

/-- STRICT reads a word as MUX does or not at all, and the words it turns away are the aliases of R132. -/
def Obligations.StrictDecodingRestrictsMux : Prop :=
  ∀ iw : Word,
    (∀ i, decodeWord .strict iw = some i → decodeWord .mux iw = some i) ∧
    ((decodeWord .mux iw ≠ none ∧ decodeWord .strict iw = none) ↔ aliasWord iw (decodeFields iw))

/-- Decoding the bytes of a well-formed instruction gives it back in either mode, whatever follows. That a shift has
its unread field `y` to give back is the model's choice (log entry 9). -/
def Obligations.DecodeAfterEncode : Prop :=
  ∀ (mode : DecodeMode) (i : Instr) (rest : List Byte), i.wellFormed = true →
    decode mode (encodeBytes i ++ rest) = .ok (i, rest)

/-- What decodes is well formed, and under STRICT the encoder gives the very word back. For the words 8xy6 and 8xyE
with `y` other than 0 the second clause is the model's choice, not the spec's: the shifts keep the field `y` they do
not read (log entry 9), where the assembler of R140 writes 0 (`asmWord`). -/
def Obligations.EncodeAfterStrictDecode : Prop :=
  ∀ (iw : Word) (i : Instr),
    (∀ mode, decodeWord mode iw = some i → i.wellFormed = true) ∧
    (decodeWord .strict iw = some i → encode i = iw)

/-- Words written out from the encodings of R130, one or more of every family. -/
def Obligations.WrittenOutWordsDecode : Prop :=
  decodeWord .mux 0x00E0 = some .clearScreen ∧ decodeWord .mux 0xD125 = some (.draw 1 2 5) ∧
  decodeWord .mux 0x1ABC = some (.jump 0xABC) ∧ decodeWord .mux 0x2FFF = some (.call 0xFFF) ∧
  decodeWord .mux 0x6AFF = some (.loadImm 10 0xFF) ∧ decodeWord .mux 0x8124 = some (.addReg 1 2) ∧
  decodeWord .mux 0xA123 = some (.loadIndex 0x123) ∧ decodeWord .mux 0xF155 = some (.storeRegisters 1) ∧
  decodeWord .mux 0xE19E = some (.skipKey 1) ∧ decodeWord .mux 0xF10A = some (.waitKey 1)

/-! ## The tick -/

/-- A tick runs the decoded instruction: pre-advance, meaning, timer decay. -/
def Obligations.StepRunsTheDecodedInstruction : Prop :=
  ∀ (s : State) (i : Instr) (rest : List Byte), s.canFetch = true →
    decode s.params.decodeMode s.fetchBytes = .ok (i, rest) →
    step s = finishTick (exec i (s.setPc (s.pc + 2)))

/-- Two bytes of an encoded well-formed instruction at a fetchable PC run that instruction, in either mode. -/
def Obligations.EncodedBytesAtPcRun : Prop :=
  ∀ (s : State) (i : Instr), i.wellFormed = true → s.canFetch = true →
    s.fetchBytes = encodeBytes i → step s = finishTick (exec i s.preAdvance)

/-- The model's own placing of a word (log entry 8): the next step can fetch and fetches that word. -/
def Obligations.PlacedWordIsFetchedNext : Prop :=
  ∀ (s : State) (w : Nat), (s.withFetchWord 16 w).canFetch = true ∧
    (s.withFetchWord 16 w).fetchWord = BitVec.ofNat 16 w

/-- R223: the PC check under each PC_CHECK. -/
def Obligations.PcCheckAtFetch : Prop :=
  ∀ s : State,
    (s.params.pcCheck = .strict → (step s = .fault (.pcFault s.pc) ↔
      s.pc.toNat % 2 = 1 ∨ s.pc.toNat < 0x200 ∨ 0xFFE < s.pc.toNat)) ∧
    (s.params.pcCheck = .bounds → (step s = .fault (.pcFault s.pc) ↔ 0xFFE < s.pc.toNat))

/-- Every fault a tick can raise has the cause and the info its rule gives, and no tick is refused. -/
def Obligations.EveryFaultHasItsCause : Prop :=
  ∀ s : State, (∀ f, step s = .fault f → faultCause s f) ∧ (∀ r, step s ≠ .refused r)

/-- R414, R415, R416, R418: when each handler raises its one fault, on every operand its encoding holds (a height is
0 to 15, R15). -/
def Obligations.HandlersCheckBeforeTheyAct : Prop :=
  ∀ s : State,
    (∀ nnn, exec (.call nnn) s = .fault .stackOverflow ↔ s.sp = 16) ∧
    (exec .ret s = .fault .stackUnderflow ↔ s.sp = 0) ∧
    (∀ x y n, n ≤ 15 → (exec (.draw x y n) s = .fault (.addressOutOfRange s.index n) ↔
      0 < n ∧ 0xFFF < s.index.toNat + n - 1)) ∧
    (∀ x, exec (.storeBcd x) s = .fault (.addressOutOfRange s.index 3) ↔ 0xFFF < s.index.toNat + 2) ∧
    (∀ x, exec (.storeRegisters x) s = .fault (.addressOutOfRange s.index (x.val + 1)) ↔
      0xFFF < s.index.toNat + x.val) ∧
    (∀ x, exec (.loadRegisters x) s = .fault (.addressOutOfRange s.index (x.val + 1)) ↔
      0xFFF < s.index.toNat + x.val) ∧
    (∀ x, exec (.skipKey x) s = .fault (.keyIndexFault (s.reg x)) ↔ 0xF < (s.reg x).toNat) ∧
    (∀ x, exec (.skipNotKey x) s = .fault (.keyIndexFault (s.reg x)) ↔ 0xF < (s.reg x).toNat)

/-- R411: a faulting tick hands out the state of before the tick with its fault; every tick has a status, whose
code is 0 exactly for Ok and never Construct's code 7. That the environment stays too is the model's choice (log
entry 6). -/
def Obligations.FaultingTickChangesNothing : Prop :=
  ∀ s : State,
    (∀ f, step s = .fault f → tick s = some (s, .fault f)) ∧
    (∀ t, step s = .next t → tick s = some (t, .ok)) ∧
    (∃ u st, tick s = some (u, st) ∧ statusCode st ≤ 6 ∧ (statusCode st = 0 ↔ st = .ok))

/-- R431: both timers after every tick that does not fault, a timer write of the same tick included; a faulting
tick leaves them. -/
def Obligations.TimersDecayOncePerTick : Prop :=
  ∀ (s : State) (i : Instr), s.fetchInstr = some i →
    (∀ t, step s = .next t →
      t.dt.toNat = (match i with
        | .setDelay x => (s.reg x).toNat
        | _ => s.dt.toNat) - 1 ∧
      t.st.toNat = (match i with
        | .setSound x => (s.reg x).toNat
        | _ => s.st.toNat) - 1) ∧
    (∀ f u st, step s = .fault f → tick s = some (u, st) → u.dt = s.dt ∧ u.st = s.st)

/-- R224: PC after every tick, by instruction; no handler faults on a target. -/
def Obligations.PcAfterEveryTick : Prop :=
  ∀ (s : State) (i : Instr), s.fetchInstr = some i →
    (∀ t, step s = .next t → t.pc = pcAfterTick i s) ∧
    (∀ f u st, step s = .fault f → tick s = some (u, st) → u.pc = s.pc) ∧
    (∀ u p, exec i u ≠ .fault (.pcFault p))

/-- No fault depends on KEY or RND (R42, R412), which stand in the model's environment (log entry 1). -/
def Obligations.InputsDecideNoFault : Prop :=
  ∀ (s : State) (inputs : List TickInput) (n : Nat) (f : Fault),
    step s = .fault f ↔ step (s.withInputs inputs n) = .fault f

/-- Only skip-key, skip-not-key, wait-key and random depend on KEY or RND (R42, R433), which stand in the model's
environment (log entry 1). Of an ill-formed draw, of more than 15 rows, it holds by the model's choice (log entry
17). -/
def Obligations.OnlyInputReadersDependOnInputs : Prop :=
  ∀ (i : Instr) (s : State) (inputs : List TickInput) (n : Nat), readsInput i = false →
    exec i (s.withInputs inputs n) = mapNext (fun t => t.withInputs inputs n) (exec i s)

/-- Which instructions write memory, the screen, the stack, I, DT and ST: every other one leaves each as it
was (R39, R40, R41, R43, R71), and none touches the model's environment (log entries 1 and 2). Of an ill-formed draw,
of more than 15 rows, it holds by the model's choice (log entry 17). -/
def Obligations.EachUnitHasItsWriters : Prop :=
  ∀ (i : Instr) (s t : State), exec i s = .next t →
    ((∀ x, i ≠ .storeBcd x) → (∀ x, i ≠ .storeRegisters x) → MemKept s t) ∧
    (i ≠ .clearScreen → (∀ x y n, i ≠ .draw x y n) → ScreenKept s t) ∧
    (i ≠ .ret → (∀ nnn, i ≠ .call nnn) → StackKept s t) ∧
    ((∀ nnn, i ≠ .loadIndex nnn) → (∀ x, i ≠ .addIndex x) → (∀ x, i ≠ .fontChar x) → t.index = s.index) ∧
    ((∀ x, i ≠ .setDelay x) → t.dt = s.dt) ∧ ((∀ x, i ≠ .setSound x) → t.st = s.st) ∧ ModelKept s t

/-- Every instruction leaves every general register it does not write (R34), VF as a flag included (R38). Of an
ill-formed draw, of more than 15 rows, it holds by the model's choice (log entry 17). -/
def Obligations.RegistersOutsideTheTableAreKept : Prop :=
  ∀ (i : Instr) (s t : State), exec i s = .next t → ∀ r, writesReg i r = false → t.reg r = s.reg r

/-- From every state that meets the invariant, a tick gives a state that meets it. The canonical form of memory is the
model's own, over what an unlisted address reads as (log entry 3). -/
def Obligations.TickKeepsTheInvariant : Prop :=
  ∀ s t : State, s.Inv → step s = .next t → t.Inv

/-- The invariant holds after Construct, whatever the program, the font and the parameters. -/
def Obligations.ConstructMeetsTheInvariant : Prop :=
  ∀ (p : Params) (font : Vector Byte 80) (prog : List Byte) (t : State),
    construct p font prog = .ok t → t.Inv

/-- The invariant holds at reset. -/
def Obligations.ResetMeetsTheInvariant : Prop := State.reset.Inv

/-- A tick that goes on under the strictest parameters goes on in the same way under looser ones. -/
def Obligations.StrictTickIsATickInEveryMode : Prop :=
  ∀ (s t : State) (d : DecodeMode) (w : VfDestWinner) (c : PcCheck),
    step (s.withParams ⟨.strict, w, .strict⟩) = .next t →
    step (s.withParams ⟨d, w, c⟩) = .next (t.withParams ⟨d, w, c⟩)

/-- The parameters change no meaning but that of a flag writer whose destination is VF (R264); they stand in the
model's environment (log entry 2). Of an ill-formed draw, of more than 15 rows, it holds by the model's choice (log
entry 17). -/
def Obligations.ParametersMatterOnlyForVfAsDestination : Prop :=
  ∀ (i : Instr) (s : State) (p : Params), flagWriterIntoVf i = false →
    exec i (s.withParams p) = mapNext (fun t => t.withParams p) (exec i s)

/-! ## Display -/

/-- R201: clear-screen clears every pixel and nothing else. -/
def Obligations.ClearScreenClearsEveryPixel : Prop :=
  ∀ s : State, ∃ t, exec .clearScreen s = .next t ∧ (∀ r c, t.fb.pixel r c = false) ∧
    OnlyScreenAndRegs s t (fun _ => False)

/-- R202, R203 (with the geometry that R204 derives): draw, pixel by pixel: each pixel is XORed with the sprite bit that lands on it, VF is 1
exactly when a set bit landed on a set pixel, else 0, and nothing else changes. -/
def Obligations.DrawXorsTheSpriteAndReportsCollision : Prop :=
  ∀ (x y : Reg) (n : Nat) (s : State), n ≤ 15 →
    (0 < n ∧ 0xFFF < s.index.toNat + n - 1 →
      exec (.draw x y n) s = .fault (.addressOutOfRange s.index n)) ∧
    (¬ (0 < n ∧ 0xFFF < s.index.toNat + n - 1) →
      ∃ t, exec (.draw x y n) s = .next t ∧
        (∀ pr pc, t.fb.pixel pr pc =
          (s.fb.pixel pr pc ^^ spriteBitAt s n ((s.reg x).toNat % 64) ((s.reg y).toNat % 32) pr pc)) ∧
        ((∃ pr pc, spriteBitAt s n ((s.reg x).toNat % 64) ((s.reg y).toNat % 32) pr pc = true ∧
          s.fb.pixel pr pc = true) → t.reg VF = 1) ∧
        ((¬ ∃ pr pc, spriteBitAt s n ((s.reg x).toNat % 64) ((s.reg y).toNat % 32) pr pc = true ∧
          s.fb.pixel pr pc = true) → t.reg VF = 0) ∧
        OnlyScreenAndRegs s t (fun r => r = VF))

/-- Drawing the same sprite twice restores the screen; from a clear screen the first draw reports no collision and
the second reports one exactly when the sprite has a set bit (R203). Where VF is a coordinate the first draw
changes it, so the second may land elsewhere: of VF as a coordinate the pixelwise statement speaks. -/
def Obligations.DrawingTwiceErases : Prop :=
  ∀ (x y : Reg) (n : Nat) (s t u : State), x ≠ VF → y ≠ VF → n ≤ 15 →
    exec (.draw x y n) s = .next t → exec (.draw x y n) t = .next u →
    ScreenKept s u ∧
    ((∀ r c, s.fb.pixel r c = false) →
      t.reg VF = 0 ∧ (u.reg VF = 1 ↔ ∃ k, k < n ∧ s.byteAt (s.index.toNat + k) ≠ 0))

/-! ## Control flow -/

/-- R227, R233: jump and jump-offset complete in every state, whatever the target. -/
def Obligations.JumpsTakeTheirTarget : Prop :=
  ∀ (s : State) (nnn : Addr12),
    (∃ t, exec (.jump nnn) s = .next t ∧ t.pc.toNat = nnn.toNat ∧ OnlyPc s t) ∧
    (∃ t, exec (.jumpOffset nnn) s = .next t ∧ t.pc.toNat = nnn.toNat + (s.reg 0).toNat ∧ OnlyPc s t)

/-- R228: call pushes PCn and takes its target, or faults on a full stack. -/
def Obligations.CallPushesTheReturnAddress : Prop :=
  ∀ (s : State) (nnn : Addr12),
    (s.sp = 16 → exec (.call nnn) s = .fault .stackOverflow) ∧
    (s.sp ≠ 16 → ∃ t, exec (.call nnn) s = .next t ∧ t.pc.toNat = nnn.toNat ∧
      t.sp.val = s.sp.val + 1 ∧ (∀ j : Fin 16, j.val = s.sp.val → t.stackEntry j = s.pc) ∧
      OnlyPcAndStack s t (fun j => j.val = s.sp.val))

/-- R226: return takes the top entry and leaves it in place, or faults on an empty stack. -/
def Obligations.ReturnTakesTheTopEntry : Prop :=
  ∀ s : State,
    (s.sp = 0 → exec .ret s = .fault .stackUnderflow) ∧
    (s.sp ≠ 0 → ∃ t, exec .ret s = .next t ∧ t.sp.val + 1 = s.sp.val ∧
      (∀ j : Fin 16, j.val + 1 = s.sp.val → t.pc = s.stackEntry j) ∧
      OnlyPcAndStack s t (fun _ => False))

/-- A return after a call comes back to the instruction after it, with the stack as before the call. -/
def Obligations.CallThenReturnComesBack : Prop :=
  ∀ (s t : State) (nnn : Addr12), exec (.call nnn) s = .next t →
    ∃ u, exec .ret t = .next u ∧ u.pc = s.pc ∧ u.sp = s.sp ∧
      (∀ j : Fin 16, j.val < s.sp.val → u.stackEntry j = s.stackEntry j)

/-- R229 to R232: the register skips complete in every state. -/
def Obligations.RegisterSkipsAdvanceByTwo : Prop :=
  ∀ s : State,
    (∀ x kk, ∃ t, exec (.skipEq x kk) s = .next t ∧
      t.pc = (if s.reg x = kk then s.pc + 2 else s.pc) ∧ OnlyPc s t) ∧
    (∀ x kk, ∃ t, exec (.skipNe x kk) s = .next t ∧
      t.pc = (if s.reg x = kk then s.pc else s.pc + 2) ∧ OnlyPc s t) ∧
    (∀ x y, ∃ t, exec (.skipRegEq x y) s = .next t ∧
      t.pc = (if s.reg x = s.reg y then s.pc + 2 else s.pc) ∧ OnlyPc s t) ∧
    (∀ x y, ∃ t, exec (.skipRegNe x y) s = .next t ∧
      t.pc = (if s.reg x = s.reg y then s.pc else s.pc + 2) ∧ OnlyPc s t)

/-- A jump to its own address repeats for any number of ticks and changes nothing but the timers (R227, C2). -/
def Obligations.SelfJumpOnlyDecaysTheTimers : Prop :=
  ∀ (k : Nat) (s : State) (nnn : Addr12), s.canFetch = true → s.fetchInstr = some (.jump nnn) →
    nnn.toNat = s.pc.toNat →
    ∃ t, core.run k s = .next t ∧ t.pc = s.pc ∧ t.dt.toNat = s.dt.toNat - k ∧ t.st.toNat = s.st.toNat - k ∧
      t.v = s.v ∧ t.index = s.index ∧ t.mem = s.mem ∧ t.fb = s.fb ∧ t.stk = s.stk ∧ t.sp = s.sp

/-! ## ALU -/

/-- R270 to R275: load-imm, add-imm, copy, or, and, xor complete in every state and write V[x] alone. -/
def Obligations.PlainRegisterWrites : Prop :=
  ∀ (s : State) (x : Reg),
    (∀ kk, ∃ t, exec (.loadImm x kk) s = .next t ∧ t.reg x = kk ∧ OnlyRegs s t (fun r => r = x)) ∧
    (∀ kk, ∃ t, exec (.addImm x kk) s = .next t ∧
      (t.reg x).toNat = ((s.reg x).toNat + kk.toNat) % 256 ∧ OnlyRegs s t (fun r => r = x)) ∧
    (∀ y, ∃ t, exec (.copy x y) s = .next t ∧ t.reg x = s.reg y ∧ OnlyRegs s t (fun r => r = x)) ∧
    (∀ y, ∃ t, exec (.orReg x y) s = .next t ∧ t.reg x = s.reg x ||| s.reg y ∧
      OnlyRegs s t (fun r => r = x)) ∧
    (∀ y, ∃ t, exec (.andReg x y) s = .next t ∧ t.reg x = s.reg x &&& s.reg y ∧
      OnlyRegs s t (fun r => r = x)) ∧
    (∀ y, ∃ t, exec (.xorReg x y) s = .next t ∧ t.reg x = s.reg x ^^^ s.reg y ∧
      OnlyRegs s t (fun r => r = x))

/-- R276 to R280: the flag writers complete in every state; result and flag in plain arithmetic, VF as the
destination under both values of VF_DEST_WINNER (R264). -/
def Obligations.FlagWritersResultAndFlag : Prop :=
  ∀ (s : State) (x y : Reg), let a := (s.reg x).toNat; let b := (s.reg y).toNat
    (∃ t, exec (.addReg x y) s = .next t ∧
      FlagWrite s t x (BitVec.ofNat 8 (a + b)) (if 0xFF < a + b then 1 else 0)) ∧
    (∃ t, exec (.subReg x y) s = .next t ∧
      FlagWrite s t x (BitVec.ofNat 8 (256 + a - b)) (if b ≤ a then 1 else 0)) ∧
    (∃ t, exec (.shiftRight x y) s = .next t ∧
      FlagWrite s t x (BitVec.ofNat 8 (a / 2)) (if a % 2 = 1 then 1 else 0)) ∧
    (∃ t, exec (.subnReg x y) s = .next t ∧
      FlagWrite s t x (BitVec.ofNat 8 (256 + b - a)) (if a ≤ b then 1 else 0)) ∧
    (∃ t, exec (.shiftLeft x y) s = .next t ∧
      FlagWrite s t x (BitVec.ofNat 8 (2 * a)) (if 128 ≤ a then 1 else 0))

/-- The arithmetic identities of the flag writers, over the integers: R287, which the spec marks as its own inference
from R261. -/
def Obligations.FlagWriterIdentities : Prop :=
  ∀ (s t : State) (x y : Reg), x ≠ VF →
    let a : Int := (s.reg x).toNat; let b : Int := (s.reg y).toNat
    let res : Int := (t.reg x).toNat; let flag : Int := (t.reg VF).toNat
    (exec (.addReg x y) s = .next t → res + 256 * flag = a + b) ∧
    (exec (.subReg x y) s = .next t → res = a + 256 * (1 - flag) - b) ∧
    (exec (.subnReg x y) s = .next t → res = b + 256 * (1 - flag) - a) ∧
    (exec (.shiftRight x y) s = .next t → 2 * res + flag = a) ∧
    (exec (.shiftLeft x y) s = .next t → res + 256 * flag = 2 * a)

/-- R281: random stores the tick's random byte under the mask, so no bit outside the mask is ever set. The byte is
whatever the environment supplies (log entry 1). -/
def Obligations.RandomStaysUnderItsMask : Prop :=
  ∀ (s : State) (x : Reg) (kk : Byte), ∃ t, exec (.random x kk) s = .next t ∧
    t.reg x = s.input.rnd &&& kk ∧ t.reg x &&& ~~~kk = 0 ∧ OnlyRegs s t (fun r => r = x)

/-! ## Index register and memory -/

/-- R310, R311, R312: the three writers of I complete in every state. -/
def Obligations.IndexWritersCompute : Prop :=
  ∀ s : State,
    (∀ nnn, ∃ t, exec (.loadIndex nnn) s = .next t ∧ t.index.toNat = nnn.toNat ∧ OnlyIndex s t) ∧
    (∀ x, ∃ t, exec (.addIndex x) s = .next t ∧
      t.index.toNat = (s.index.toNat + (s.reg x).toNat) % 65536 ∧ OnlyIndex s t) ∧
    (∀ x, ∃ t, exec (.fontChar x) s = .next t ∧ t.index.toNat = (s.reg x).toNat * 5 ∧ OnlyIndex s t)

/-- R313: store-bcd writes the three decimal digits of V[x], or faults and writes none. -/
def Obligations.StoreBcdWritesDecimalDigits : Prop :=
  ∀ (s : State) (x : Reg),
    (0xFFF < s.index.toNat + 2 → exec (.storeBcd x) s = .fault (.addressOutOfRange s.index 3)) ∧
    (s.index.toNat + 2 ≤ 0xFFF → ∃ t, exec (.storeBcd x) s = .next t ∧
      (t.byteAt (s.effAddr 0)).toNat ≤ 2 ∧ (t.byteAt (s.effAddr 1)).toNat ≤ 9 ∧
      (t.byteAt (s.effAddr 2)).toNat ≤ 9 ∧
      100 * (t.byteAt (s.effAddr 0)).toNat + 10 * (t.byteAt (s.effAddr 1)).toNat +
        (t.byteAt (s.effAddr 2)).toNat = (s.reg x).toNat ∧
      OnlyMem s t (s.effAddr 0) 3)

/-- R314: store-registers writes V0..Vx at I..I+x, or faults and writes none. -/
def Obligations.StoreRegistersWritesTheBank : Prop :=
  ∀ (s : State) (x : Reg),
    (0xFFF < s.index.toNat + x.val →
      exec (.storeRegisters x) s = .fault (.addressOutOfRange s.index (x.val + 1))) ∧
    (s.index.toNat + x.val ≤ 0xFFF → ∃ t, exec (.storeRegisters x) s = .next t ∧
      (∀ r : Reg, r ≤ x → t.byteAt (s.effAddr r.val) = s.reg r) ∧
      OnlyMem s t (s.effAddr 0) (x.val + 1))

/-- R315: load-registers reads V0..Vx from I..I+x, or faults and changes none. -/
def Obligations.LoadRegistersReadsTheBank : Prop :=
  ∀ (s : State) (x : Reg),
    (0xFFF < s.index.toNat + x.val →
      exec (.loadRegisters x) s = .fault (.addressOutOfRange s.index (x.val + 1))) ∧
    (s.index.toNat + x.val ≤ 0xFFF → ∃ t, exec (.loadRegisters x) s = .next t ∧
      (∀ r : Reg, r ≤ x → t.reg r = s.byteAt (s.effAddr r.val)) ∧
      OnlyRegs s t (fun r => r ≤ x))

/-- Registers stored, then changed at will, come back when they are loaded from the same I. -/
def Obligations.StoredBankComesBack : Prop :=
  ∀ (s t u : State) (x : Reg), exec (.storeRegisters x) s = .next t →
    u.mem = t.mem → u.index = s.index →
    ∃ w, exec (.loadRegisters x) u = .next w ∧ (∀ r : Reg, r ≤ x → w.reg r = s.reg r)

/-- A store over the next instruction is what the next fetch reads (R85, R455). -/
def Obligations.StoreReachesTheNextFetch : Prop :=
  ∀ (s t : State) (x : Reg), 1 ≤ x.val → s.index = s.pc → exec (.storeRegisters x) s = .next t →
    t.fetchWord = wordOfBytes (s.reg 0) (s.reg 1)

/-- Two memories in canonical form that read alike everywhere are the same data. The form is the model's own, over
what an unlisted address reads as (log entry 3). -/
def Obligations.EqualReadsAreEqualMemories : Prop :=
  ∀ m m' : Memory, m.wf → m'.wf → (∀ a, a < 4096 → m.read a = m'.read a) → m = m'

/-! ## Keys and timers -/

/-- R340, R341: the key skips, or KeyIndexFault where V[x] names no key. -/
def Obligations.KeySkipsTestTheNamedKey : Prop :=
  ∀ (s : State) (x : Reg),
    (0xF < (s.reg x).toNat →
      exec (.skipKey x) s = .fault (.keyIndexFault (s.reg x)) ∧
      exec (.skipNotKey x) s = .fault (.keyIndexFault (s.reg x))) ∧
    ((s.reg x).toNat ≤ 0xF →
      (∃ t, exec (.skipKey x) s = .next t ∧
        t.pc = (if s.input.key.getLsbD (s.reg x).toNat = true then s.pc + 2 else s.pc) ∧ OnlyPc s t) ∧
      (∃ t, exec (.skipNotKey x) s = .next t ∧
        t.pc = (if s.input.key.getLsbD (s.reg x).toNat = true then s.pc else s.pc + 2) ∧ OnlyPc s t))

/-- R342, R343, R344: the timer moves complete in every state; the decay that ends the tick follows the move. -/
def Obligations.TimerMoves : Prop :=
  ∀ (s : State) (x : Reg),
    (∃ t, exec (.getDelay x) s = .next t ∧ t.reg x = s.dt ∧ t.endTick.reg x = s.dt ∧
      t.endTick.dt.toNat = s.dt.toNat - 1 ∧ OnlyRegs s t (fun r => r = x)) ∧
    (∃ t, exec (.setDelay x) s = .next t ∧ t.dt = s.reg x ∧ t.endTick.dt.toNat = (s.reg x).toNat - 1 ∧
      t.st = s.st ∧ OnlyTimers s t) ∧
    (∃ t, exec (.setSound x) s = .next t ∧ t.st = s.reg x ∧ t.endTick.st.toNat = (s.reg x).toNat - 1 ∧
      t.dt = s.dt ∧ OnlyTimers s t)

/-- R345: wait-key takes the lowest pressed key, or goes back to its own address; both complete, and a blocked
tick still decays both timers. -/
def Obligations.WaitKeyTakesTheLowestKey : Prop :=
  ∀ (s : State) (x : Reg),
    (s.input.key = 0 → ∃ t, exec (.waitKey x) s = .next t ∧ t.pc = s.pc - 2 ∧ OnlyPc s t ∧
      t.endTick.dt.toNat = s.dt.toNat - 1 ∧ t.endTick.st.toNat = s.st.toNat - 1) ∧
    (s.input.key ≠ 0 → ∃ t, exec (.waitKey x) s = .next t ∧
      s.input.key.getLsbD (t.reg x).toNat = true ∧
      (∀ k, k < (t.reg x).toNat → s.input.key.getLsbD k = false) ∧ OnlyRegs s t (fun r => r = x))

/-- A blocked wait-key tick goes on, and of the spec's state only the timers change (R345, R346, R436). -/
def Obligations.BlockedWaitKeyKeepsPolling : Prop :=
  ∀ (s : State) (x : Reg), s.canFetch = true → s.fetchInstr = some (.waitKey x) → s.input.key = 0 →
    ∃ t, step s = .next t ∧ t.pc = s.pc ∧ t.fetchInstr = some (.waitKey x) ∧
      t.dt.toNat = s.dt.toNat - 1 ∧ t.st.toNat = s.st.toNat - 1 ∧
      t.v = s.v ∧ t.index = s.index ∧ t.mem = s.mem ∧ t.fb = s.fb ∧ t.stk = s.stk ∧ t.sp = s.sp

/-! ## The state record -/

/-- A tick is a function of the core's nine fields, the parameters and this tick's KEY and RND alone (R30, R42, R220):
the later inputs and the number of the tick change neither the core's next state nor the status. What a tick does to
the model's environment beside them is the model's choice (log entries 1 and 2). -/
def Obligations.TickIsAFunctionOfStateAndInputs : Prop :=
  ∀ s : State,
    (tick s).map (fun r => (r.1.toMachineState, r.2)) = tickOf s.params s.toMachineState s.input ∧
    (∀ t, step s = .next t →
      t.params = s.params ∧ t.inputs = s.inputs.tail ∧ t.tickCount = s.tickCount + 1)
end

