-- ==== Sys2Proof/Laws/State.lean ====
section
/-! SUPPORT. One lemma per field per update of State, each true by rfl, and what registers and pixels read as
after an update. -/

namespace Sys2Proof.Machine

/-! ## setRegs -/

@[simp] theorem State.setRegs_mem (s : State) (v : Vector Byte 16) : (s.setRegs v).mem = s.mem := rfl
@[simp] theorem State.setRegs_fb (s : State) (v : Vector Byte 16) : (s.setRegs v).fb = s.fb := rfl
@[simp] theorem State.setRegs_v (s : State) (v : Vector Byte 16) : (s.setRegs v).v = v := rfl
@[simp] theorem State.setRegs_index (s : State) (v : Vector Byte 16) : (s.setRegs v).index = s.index := rfl
@[simp] theorem State.setRegs_pc (s : State) (v : Vector Byte 16) : (s.setRegs v).pc = s.pc := rfl
@[simp] theorem State.setRegs_stk (s : State) (v : Vector Byte 16) : (s.setRegs v).stk = s.stk := rfl
@[simp] theorem State.setRegs_sp (s : State) (v : Vector Byte 16) : (s.setRegs v).sp = s.sp := rfl
@[simp] theorem State.setRegs_dt (s : State) (v : Vector Byte 16) : (s.setRegs v).dt = s.dt := rfl
@[simp] theorem State.setRegs_st (s : State) (v : Vector Byte 16) : (s.setRegs v).st = s.st := rfl
@[simp] theorem State.setRegs_params (s : State) (v : Vector Byte 16) : (s.setRegs v).params = s.params := rfl
@[simp] theorem State.setRegs_inputs (s : State) (v : Vector Byte 16) : (s.setRegs v).inputs = s.inputs := rfl
@[simp] theorem State.setRegs_tickCount (s : State) (v : Vector Byte 16) : (s.setRegs v).tickCount = s.tickCount := rfl

/-! ## setReg -/

@[simp] theorem State.setReg_mem (s : State) (r : Reg) (b : Byte) : (s.setReg r b).mem = s.mem := rfl
@[simp] theorem State.setReg_fb (s : State) (r : Reg) (b : Byte) : (s.setReg r b).fb = s.fb := rfl
@[simp] theorem State.setReg_v (s : State) (r : Reg) (b : Byte) : (s.setReg r b).v = s.v.set r.val b := rfl
@[simp] theorem State.setReg_index (s : State) (r : Reg) (b : Byte) : (s.setReg r b).index = s.index := rfl
@[simp] theorem State.setReg_pc (s : State) (r : Reg) (b : Byte) : (s.setReg r b).pc = s.pc := rfl
@[simp] theorem State.setReg_stk (s : State) (r : Reg) (b : Byte) : (s.setReg r b).stk = s.stk := rfl
@[simp] theorem State.setReg_sp (s : State) (r : Reg) (b : Byte) : (s.setReg r b).sp = s.sp := rfl
@[simp] theorem State.setReg_dt (s : State) (r : Reg) (b : Byte) : (s.setReg r b).dt = s.dt := rfl
@[simp] theorem State.setReg_st (s : State) (r : Reg) (b : Byte) : (s.setReg r b).st = s.st := rfl
@[simp] theorem State.setReg_params (s : State) (r : Reg) (b : Byte) : (s.setReg r b).params = s.params := rfl
@[simp] theorem State.setReg_inputs (s : State) (r : Reg) (b : Byte) : (s.setReg r b).inputs = s.inputs := rfl
@[simp] theorem State.setReg_tickCount (s : State) (r : Reg) (b : Byte) : (s.setReg r b).tickCount = s.tickCount := rfl

/-! ## setIndex -/

@[simp] theorem State.setIndex_mem (s : State) (w : Word) : (s.setIndex w).mem = s.mem := rfl
@[simp] theorem State.setIndex_fb (s : State) (w : Word) : (s.setIndex w).fb = s.fb := rfl
@[simp] theorem State.setIndex_v (s : State) (w : Word) : (s.setIndex w).v = s.v := rfl
@[simp] theorem State.setIndex_index (s : State) (w : Word) : (s.setIndex w).index = w := rfl
@[simp] theorem State.setIndex_pc (s : State) (w : Word) : (s.setIndex w).pc = s.pc := rfl
@[simp] theorem State.setIndex_stk (s : State) (w : Word) : (s.setIndex w).stk = s.stk := rfl
@[simp] theorem State.setIndex_sp (s : State) (w : Word) : (s.setIndex w).sp = s.sp := rfl
@[simp] theorem State.setIndex_dt (s : State) (w : Word) : (s.setIndex w).dt = s.dt := rfl
@[simp] theorem State.setIndex_st (s : State) (w : Word) : (s.setIndex w).st = s.st := rfl
@[simp] theorem State.setIndex_params (s : State) (w : Word) : (s.setIndex w).params = s.params := rfl
@[simp] theorem State.setIndex_inputs (s : State) (w : Word) : (s.setIndex w).inputs = s.inputs := rfl
@[simp] theorem State.setIndex_tickCount (s : State) (w : Word) : (s.setIndex w).tickCount = s.tickCount := rfl

/-! ## setPc -/

@[simp] theorem State.setPc_mem (s : State) (w : Word) : (s.setPc w).mem = s.mem := rfl
@[simp] theorem State.setPc_fb (s : State) (w : Word) : (s.setPc w).fb = s.fb := rfl
@[simp] theorem State.setPc_v (s : State) (w : Word) : (s.setPc w).v = s.v := rfl
@[simp] theorem State.setPc_index (s : State) (w : Word) : (s.setPc w).index = s.index := rfl
@[simp] theorem State.setPc_pc (s : State) (w : Word) : (s.setPc w).pc = w := rfl
@[simp] theorem State.setPc_stk (s : State) (w : Word) : (s.setPc w).stk = s.stk := rfl
@[simp] theorem State.setPc_sp (s : State) (w : Word) : (s.setPc w).sp = s.sp := rfl
@[simp] theorem State.setPc_dt (s : State) (w : Word) : (s.setPc w).dt = s.dt := rfl
@[simp] theorem State.setPc_st (s : State) (w : Word) : (s.setPc w).st = s.st := rfl
@[simp] theorem State.setPc_params (s : State) (w : Word) : (s.setPc w).params = s.params := rfl
@[simp] theorem State.setPc_inputs (s : State) (w : Word) : (s.setPc w).inputs = s.inputs := rfl
@[simp] theorem State.setPc_tickCount (s : State) (w : Word) : (s.setPc w).tickCount = s.tickCount := rfl

/-! ## setDt -/

@[simp] theorem State.setDt_mem (s : State) (b : Byte) : (s.setDt b).mem = s.mem := rfl
@[simp] theorem State.setDt_fb (s : State) (b : Byte) : (s.setDt b).fb = s.fb := rfl
@[simp] theorem State.setDt_v (s : State) (b : Byte) : (s.setDt b).v = s.v := rfl
@[simp] theorem State.setDt_index (s : State) (b : Byte) : (s.setDt b).index = s.index := rfl
@[simp] theorem State.setDt_pc (s : State) (b : Byte) : (s.setDt b).pc = s.pc := rfl
@[simp] theorem State.setDt_stk (s : State) (b : Byte) : (s.setDt b).stk = s.stk := rfl
@[simp] theorem State.setDt_sp (s : State) (b : Byte) : (s.setDt b).sp = s.sp := rfl
@[simp] theorem State.setDt_dt (s : State) (b : Byte) : (s.setDt b).dt = b := rfl
@[simp] theorem State.setDt_st (s : State) (b : Byte) : (s.setDt b).st = s.st := rfl
@[simp] theorem State.setDt_params (s : State) (b : Byte) : (s.setDt b).params = s.params := rfl
@[simp] theorem State.setDt_inputs (s : State) (b : Byte) : (s.setDt b).inputs = s.inputs := rfl
@[simp] theorem State.setDt_tickCount (s : State) (b : Byte) : (s.setDt b).tickCount = s.tickCount := rfl

/-! ## setSt -/

@[simp] theorem State.setSt_mem (s : State) (b : Byte) : (s.setSt b).mem = s.mem := rfl
@[simp] theorem State.setSt_fb (s : State) (b : Byte) : (s.setSt b).fb = s.fb := rfl
@[simp] theorem State.setSt_v (s : State) (b : Byte) : (s.setSt b).v = s.v := rfl
@[simp] theorem State.setSt_index (s : State) (b : Byte) : (s.setSt b).index = s.index := rfl
@[simp] theorem State.setSt_pc (s : State) (b : Byte) : (s.setSt b).pc = s.pc := rfl
@[simp] theorem State.setSt_stk (s : State) (b : Byte) : (s.setSt b).stk = s.stk := rfl
@[simp] theorem State.setSt_sp (s : State) (b : Byte) : (s.setSt b).sp = s.sp := rfl
@[simp] theorem State.setSt_dt (s : State) (b : Byte) : (s.setSt b).dt = s.dt := rfl
@[simp] theorem State.setSt_st (s : State) (b : Byte) : (s.setSt b).st = b := rfl
@[simp] theorem State.setSt_params (s : State) (b : Byte) : (s.setSt b).params = s.params := rfl
@[simp] theorem State.setSt_inputs (s : State) (b : Byte) : (s.setSt b).inputs = s.inputs := rfl
@[simp] theorem State.setSt_tickCount (s : State) (b : Byte) : (s.setSt b).tickCount = s.tickCount := rfl

/-! ## setMem -/

@[simp] theorem State.setMem_mem (s : State) (m : Memory) : (s.setMem m).mem = m := rfl
@[simp] theorem State.setMem_fb (s : State) (m : Memory) : (s.setMem m).fb = s.fb := rfl
@[simp] theorem State.setMem_v (s : State) (m : Memory) : (s.setMem m).v = s.v := rfl
@[simp] theorem State.setMem_index (s : State) (m : Memory) : (s.setMem m).index = s.index := rfl
@[simp] theorem State.setMem_pc (s : State) (m : Memory) : (s.setMem m).pc = s.pc := rfl
@[simp] theorem State.setMem_stk (s : State) (m : Memory) : (s.setMem m).stk = s.stk := rfl
@[simp] theorem State.setMem_sp (s : State) (m : Memory) : (s.setMem m).sp = s.sp := rfl
@[simp] theorem State.setMem_dt (s : State) (m : Memory) : (s.setMem m).dt = s.dt := rfl
@[simp] theorem State.setMem_st (s : State) (m : Memory) : (s.setMem m).st = s.st := rfl
@[simp] theorem State.setMem_params (s : State) (m : Memory) : (s.setMem m).params = s.params := rfl
@[simp] theorem State.setMem_inputs (s : State) (m : Memory) : (s.setMem m).inputs = s.inputs := rfl
@[simp] theorem State.setMem_tickCount (s : State) (m : Memory) : (s.setMem m).tickCount = s.tickCount := rfl

/-! ## setFb -/

@[simp] theorem State.setFb_mem (s : State) (fb : FrameBuffer) : (s.setFb fb).mem = s.mem := rfl
@[simp] theorem State.setFb_fb (s : State) (fb : FrameBuffer) : (s.setFb fb).fb = fb := rfl
@[simp] theorem State.setFb_v (s : State) (fb : FrameBuffer) : (s.setFb fb).v = s.v := rfl
@[simp] theorem State.setFb_index (s : State) (fb : FrameBuffer) : (s.setFb fb).index = s.index := rfl
@[simp] theorem State.setFb_pc (s : State) (fb : FrameBuffer) : (s.setFb fb).pc = s.pc := rfl
@[simp] theorem State.setFb_stk (s : State) (fb : FrameBuffer) : (s.setFb fb).stk = s.stk := rfl
@[simp] theorem State.setFb_sp (s : State) (fb : FrameBuffer) : (s.setFb fb).sp = s.sp := rfl
@[simp] theorem State.setFb_dt (s : State) (fb : FrameBuffer) : (s.setFb fb).dt = s.dt := rfl
@[simp] theorem State.setFb_st (s : State) (fb : FrameBuffer) : (s.setFb fb).st = s.st := rfl
@[simp] theorem State.setFb_params (s : State) (fb : FrameBuffer) : (s.setFb fb).params = s.params := rfl
@[simp] theorem State.setFb_inputs (s : State) (fb : FrameBuffer) : (s.setFb fb).inputs = s.inputs := rfl
@[simp] theorem State.setFb_tickCount (s : State) (fb : FrameBuffer) : (s.setFb fb).tickCount = s.tickCount := rfl

/-! ## loadRegs -/

@[simp] theorem State.loadRegs_mem (s : State) (x : Reg) (a : Nat) : (s.loadRegs x a).mem = s.mem := State.setRegs_mem s _
@[simp] theorem State.loadRegs_fb (s : State) (x : Reg) (a : Nat) : (s.loadRegs x a).fb = s.fb := State.setRegs_fb s _
@[simp] theorem State.loadRegs_v (s : State) (x : Reg) (a : Nat) : (s.loadRegs x a).v = Vector.ofFn fun r => if r ≤ x then s.mem.read (a + r.val) else s.reg r := State.setRegs_v s _
@[simp] theorem State.loadRegs_index (s : State) (x : Reg) (a : Nat) : (s.loadRegs x a).index = s.index := State.setRegs_index s _
@[simp] theorem State.loadRegs_pc (s : State) (x : Reg) (a : Nat) : (s.loadRegs x a).pc = s.pc := State.setRegs_pc s _
@[simp] theorem State.loadRegs_stk (s : State) (x : Reg) (a : Nat) : (s.loadRegs x a).stk = s.stk := State.setRegs_stk s _
@[simp] theorem State.loadRegs_sp (s : State) (x : Reg) (a : Nat) : (s.loadRegs x a).sp = s.sp := State.setRegs_sp s _
@[simp] theorem State.loadRegs_dt (s : State) (x : Reg) (a : Nat) : (s.loadRegs x a).dt = s.dt := State.setRegs_dt s _
@[simp] theorem State.loadRegs_st (s : State) (x : Reg) (a : Nat) : (s.loadRegs x a).st = s.st := State.setRegs_st s _
@[simp] theorem State.loadRegs_params (s : State) (x : Reg) (a : Nat) : (s.loadRegs x a).params = s.params := State.setRegs_params s _
@[simp] theorem State.loadRegs_inputs (s : State) (x : Reg) (a : Nat) : (s.loadRegs x a).inputs = s.inputs := State.setRegs_inputs s _
@[simp] theorem State.loadRegs_tickCount (s : State) (x : Reg) (a : Nat) : (s.loadRegs x a).tickCount = s.tickCount := State.setRegs_tickCount s _

/-! ## preAdvance -/

@[simp] theorem State.preAdvance_mem (s : State) : (s.preAdvance).mem = s.mem := State.setPc_mem s (s.pc + 2)
@[simp] theorem State.preAdvance_fb (s : State) : (s.preAdvance).fb = s.fb := State.setPc_fb s (s.pc + 2)
@[simp] theorem State.preAdvance_v (s : State) : (s.preAdvance).v = s.v := State.setPc_v s (s.pc + 2)
@[simp] theorem State.preAdvance_index (s : State) : (s.preAdvance).index = s.index := State.setPc_index s (s.pc + 2)
@[simp] theorem State.preAdvance_pc (s : State) : (s.preAdvance).pc = s.pc + 2 := State.setPc_pc s (s.pc + 2)
@[simp] theorem State.preAdvance_stk (s : State) : (s.preAdvance).stk = s.stk := State.setPc_stk s (s.pc + 2)
@[simp] theorem State.preAdvance_sp (s : State) : (s.preAdvance).sp = s.sp := State.setPc_sp s (s.pc + 2)
@[simp] theorem State.preAdvance_dt (s : State) : (s.preAdvance).dt = s.dt := State.setPc_dt s (s.pc + 2)
@[simp] theorem State.preAdvance_st (s : State) : (s.preAdvance).st = s.st := State.setPc_st s (s.pc + 2)
@[simp] theorem State.preAdvance_params (s : State) : (s.preAdvance).params = s.params := State.setPc_params s (s.pc + 2)
@[simp] theorem State.preAdvance_inputs (s : State) : (s.preAdvance).inputs = s.inputs := State.setPc_inputs s (s.pc + 2)
@[simp] theorem State.preAdvance_tickCount (s : State) : (s.preAdvance).tickCount = s.tickCount := State.setPc_tickCount s (s.pc + 2)

/-! ## endTick -/

@[simp] theorem State.endTick_mem (s : State) : (s.endTick).mem = s.mem := rfl
@[simp] theorem State.endTick_fb (s : State) : (s.endTick).fb = s.fb := rfl
@[simp] theorem State.endTick_v (s : State) : (s.endTick).v = s.v := rfl
@[simp] theorem State.endTick_index (s : State) : (s.endTick).index = s.index := rfl
@[simp] theorem State.endTick_pc (s : State) : (s.endTick).pc = s.pc := rfl
@[simp] theorem State.endTick_stk (s : State) : (s.endTick).stk = s.stk := rfl
@[simp] theorem State.endTick_sp (s : State) : (s.endTick).sp = s.sp := rfl
@[simp] theorem State.endTick_dt (s : State) : (s.endTick).dt = decayTimer s.dt := rfl
@[simp] theorem State.endTick_st (s : State) : (s.endTick).st = decayTimer s.st := rfl
@[simp] theorem State.endTick_params (s : State) : (s.endTick).params = s.params := rfl
@[simp] theorem State.endTick_inputs (s : State) : (s.endTick).inputs = s.inputs.tail := rfl
@[simp] theorem State.endTick_tickCount (s : State) : (s.endTick).tickCount = s.tickCount + 1 := rfl

/-! ## Registers after an update -/

@[simp] theorem State.reg_setReg (s : State) (r q : Reg) (b : Byte) :
    (s.setReg r b).reg q = if q = r then b else s.reg q := by
  unfold State.reg
  simp only [State.setReg_v, Vector.getElem_set, Fin.ext_iff, eq_comm]

/-- `V[q]` after load-registers' update. -/
@[simp] theorem State.reg_loadRegs (s : State) (x q : Reg) (a : Nat) :
    (s.loadRegs x a).reg q = if q ≤ x then s.byteAt (a + q.val) else s.reg q := by
  simp [State.reg, State.byteAt]

@[simp] theorem State.reg_setIndex (s : State) (q : Reg) (w : Word) : (s.setIndex w).reg q = s.reg q := rfl
@[simp] theorem State.reg_setPc (s : State) (q : Reg) (w : Word) : (s.setPc w).reg q = s.reg q := rfl
@[simp] theorem State.reg_setDt (s : State) (q : Reg) (b : Byte) : (s.setDt b).reg q = s.reg q := rfl
@[simp] theorem State.reg_setSt (s : State) (q : Reg) (b : Byte) : (s.setSt b).reg q = s.reg q := rfl
@[simp] theorem State.reg_setMem (s : State) (q : Reg) (m : Memory) : (s.setMem m).reg q = s.reg q := rfl
@[simp] theorem State.reg_setFb (s : State) (q : Reg) (fb : FrameBuffer) : (s.setFb fb).reg q = s.reg q := rfl
@[simp] theorem State.reg_preAdvance (s : State) (q : Reg) : (s.preAdvance).reg q = s.reg q := State.reg_setPc s q (s.pc + 2)
@[simp] theorem State.reg_endTick (s : State) (q : Reg) : (s.endTick).reg q = s.reg q := rfl

/-! ## Memory bytes and stack entries after an update -/

@[simp] theorem State.byteAt_setRegs (s : State) (k : Nat) (v : Vector Byte 16) : (s.setRegs v).byteAt k = s.byteAt k := rfl
@[simp] theorem State.byteAt_setReg (s : State) (k : Nat) (r : Reg) (b : Byte) : (s.setReg r b).byteAt k = s.byteAt k := rfl
@[simp] theorem State.byteAt_setIndex (s : State) (k : Nat) (w : Word) : (s.setIndex w).byteAt k = s.byteAt k := rfl
@[simp] theorem State.byteAt_setPc (s : State) (k : Nat) (w : Word) : (s.setPc w).byteAt k = s.byteAt k := rfl
@[simp] theorem State.byteAt_setDt (s : State) (k : Nat) (b : Byte) : (s.setDt b).byteAt k = s.byteAt k := rfl
@[simp] theorem State.byteAt_setSt (s : State) (k : Nat) (b : Byte) : (s.setSt b).byteAt k = s.byteAt k := rfl
@[simp] theorem State.byteAt_setMem (s : State) (k : Nat) (m : Memory) : (s.setMem m).byteAt k = m.read k := rfl
@[simp] theorem State.byteAt_setFb (s : State) (k : Nat) (fb : FrameBuffer) : (s.setFb fb).byteAt k = s.byteAt k := rfl
@[simp] theorem State.byteAt_loadRegs (s : State) (k : Nat) (x : Reg) (a : Nat) : (s.loadRegs x a).byteAt k = s.byteAt k := State.byteAt_setRegs s k _
@[simp] theorem State.byteAt_preAdvance (s : State) (k : Nat) : (s.preAdvance).byteAt k = s.byteAt k := State.byteAt_setPc s k (s.pc + 2)
@[simp] theorem State.byteAt_endTick (s : State) (k : Nat) : (s.endTick).byteAt k = s.byteAt k := rfl
@[simp] theorem State.stackEntry_setRegs (s : State) (j : Fin 16) (v : Vector Byte 16) : (s.setRegs v).stackEntry j = s.stackEntry j := rfl
@[simp] theorem State.stackEntry_setReg (s : State) (j : Fin 16) (r : Reg) (b : Byte) : (s.setReg r b).stackEntry j = s.stackEntry j := rfl
@[simp] theorem State.stackEntry_setIndex (s : State) (j : Fin 16) (w : Word) : (s.setIndex w).stackEntry j = s.stackEntry j := rfl
@[simp] theorem State.stackEntry_setPc (s : State) (j : Fin 16) (w : Word) : (s.setPc w).stackEntry j = s.stackEntry j := rfl
@[simp] theorem State.stackEntry_setDt (s : State) (j : Fin 16) (b : Byte) : (s.setDt b).stackEntry j = s.stackEntry j := rfl
@[simp] theorem State.stackEntry_setSt (s : State) (j : Fin 16) (b : Byte) : (s.setSt b).stackEntry j = s.stackEntry j := rfl
@[simp] theorem State.stackEntry_setMem (s : State) (j : Fin 16) (m : Memory) : (s.setMem m).stackEntry j = s.stackEntry j := rfl
@[simp] theorem State.stackEntry_setFb (s : State) (j : Fin 16) (fb : FrameBuffer) : (s.setFb fb).stackEntry j = s.stackEntry j := rfl
@[simp] theorem State.stackEntry_loadRegs (s : State) (j : Fin 16) (x : Reg) (a : Nat) : (s.loadRegs x a).stackEntry j = s.stackEntry j := State.stackEntry_setRegs s j _
@[simp] theorem State.stackEntry_preAdvance (s : State) (j : Fin 16) : (s.preAdvance).stackEntry j = s.stackEntry j := State.stackEntry_setPc s j (s.pc + 2)
@[simp] theorem State.stackEntry_endTick (s : State) (j : Fin 16) : (s.endTick).stackEntry j = s.stackEntry j := rfl

/-! ## The tick input after an update -/

@[simp] theorem State.input_setRegs (s : State) (v : Vector Byte 16) : (s.setRegs v).input = s.input := rfl
@[simp] theorem State.input_setReg (s : State) (r : Reg) (b : Byte) : (s.setReg r b).input = s.input := rfl
@[simp] theorem State.input_setIndex (s : State) (w : Word) : (s.setIndex w).input = s.input := rfl
@[simp] theorem State.input_setPc (s : State) (w : Word) : (s.setPc w).input = s.input := rfl
@[simp] theorem State.input_setDt (s : State) (b : Byte) : (s.setDt b).input = s.input := rfl
@[simp] theorem State.input_setSt (s : State) (b : Byte) : (s.setSt b).input = s.input := rfl
@[simp] theorem State.input_setMem (s : State) (m : Memory) : (s.setMem m).input = s.input := rfl
@[simp] theorem State.input_setFb (s : State) (fb : FrameBuffer) : (s.setFb fb).input = s.input := rfl
@[simp] theorem State.input_loadRegs (s : State) (x : Reg) (a : Nat) : (s.loadRegs x a).input = s.input := State.input_setRegs s _
@[simp] theorem State.input_preAdvance (s : State) : (s.preAdvance).input = s.input := State.input_setPc s (s.pc + 2)

/-! ## A skip -/

@[simp] theorem State.skipIf_true (s : State) : s.skipIf true = s.setPc (s.pc + 2) := rfl
@[simp] theorem State.skipIf_false (s : State) : s.skipIf false = s := rfl

/-- A skip changes PC only. -/
theorem State.skipIf_eq (s : State) (c : Bool) :
    s.skipIf c = s.setPc (if c then s.pc + 2 else s.pc) := by
  cases c <;> rfl

end Sys2Proof.Machine
end

