-- ==== Sys2Proof/Laws/Memory.lean ====
section
/-! SUPPORT. The laws of memory: a read after a write, and every memory operation keeps the canonical form. -/

namespace Sys2Proof.Machine

/-- A byte of an address no cell lists. -/
theorem Memory.read_of_not_listed {m : Memory} {a : Nat} (h : ∀ c ∈ m, c.1 ≠ a) :
    m.read a = Memory.background a := by
  induction m with
  | nil => rfl
  | cons c m ih =>
    rw [List.forall_mem_cons] at h
    simp [Memory.read, h.1, ih h.2]

theorem Memory.read_insertCell {m : Memory} {a : Nat} (b : Byte) (h : ∀ c ∈ m, c.1 ≠ a) (k : Nat) :
    (Memory.insertCell (a, b) m).read k = if k = a then b else m.read k := by
  induction m with
  | nil => simp [Memory.insertCell, Memory.read, eq_comm]
  | cons d m ih =>
    rw [List.forall_mem_cons] at h
    unfold Memory.insertCell
    split
    · simp [Memory.read, eq_comm]
    · simp only [Memory.read, ih h.2]
      split <;> split <;> simp_all

theorem Memory.read_filter (m : Memory) (a k : Nat) :
    Memory.read (m.filter fun c => c.1 != a) k = if k = a then Memory.background a else m.read k := by
  induction m with
  | nil => simp [Memory.read]; intro h; rw [h]
  | cons d m ih =>
    by_cases hd : d.1 = a
    · simp only [List.filter_cons, hd, bne_self_eq_false, Bool.false_eq_true, if_false, ih, Memory.read]
      by_cases hk : k = a <;> simp_all [eq_comm]
    · simp only [List.filter_cons, bne_iff_ne, ne_eq, hd, not_false_eq_true, if_true, Memory.read, ih]
      by_cases hk : k = a
      · subst hk; simp [hd]
      · simp [hk]

/-- A read after a write: the byte written there, and every other byte as before (R78). -/
@[simp] theorem Memory.read_write (m : Memory) (a k : Nat) (b : Byte) :
    (m.write a b).read k = if k = a then b else m.read k := by
  unfold Memory.write
  simp only
  split
  · rename_i hb
    rw [Memory.read_filter]; simp [hb]
  · rw [Memory.read_insertCell b (by simp), Memory.read_filter]
    split <;> simp_all

/-- A read after bytes were written in rising order (R73). -/
theorem Memory.read_writeBytes (bs : List Byte) (m : Memory) (a k : Nat) :
    (m.writeBytes a bs).read k =
      if a ≤ k ∧ k < a + bs.length then bs.getD (k - a) 0 else m.read k := by
  induction bs generalizing m a with
  | nil =>
    have : ¬ (a ≤ k ∧ k < a + 0) := by omega
    simp only [Memory.writeBytes, List.length_nil, if_neg this]
  | cons b bs ih =>
    simp only [Memory.writeBytes, ih, Memory.read_write, List.length_cons]
    rcases Nat.lt_trichotomy k a with h | h | h
    · rw [if_neg (by omega), if_neg (by omega), if_neg (by omega)]
    · subst h
      simp
    · obtain ⟨d, rfl⟩ : ∃ d, k = a + 1 + d := ⟨k - (a + 1), by omega⟩
      have h1 : a + 1 + d - (a + 1) = d := by omega
      have h2 : a + 1 + d - a = d + 1 := by omega
      have h3 : ¬ a + 1 + d = a := by omega
      simp only [h1, h2, h3, if_false, List.getD_cons_succ]
      by_cases hd : d < bs.length
      · rw [if_pos (by omega), if_pos (by omega)]
      · rw [if_neg (by omega), if_neg (by omega)]

theorem Memory.length_readBytes (m : Memory) (a len : Nat) : (m.readBytes a len).length = len := by
  simp [Memory.readBytes]

theorem Memory.mem_insertCell {c d : Host.Cell} {m : Memory} :
    d ∈ Memory.insertCell c m ↔ d = c ∨ d ∈ m := by
  induction m with
  | nil => simp [Memory.insertCell]
  | cons e m ih =>
    unfold Memory.insertCell
    split
    · simp
    · simp [ih]; tauto

theorem Memory.insertCell_sorted {c : Host.Cell} {m : Memory} (h : ∀ d ∈ m, d.1 ≠ c.1)
    (hm : m.Pairwise (fun c d => c.1 < d.1)) :
    (Memory.insertCell c m).Pairwise (fun c d => c.1 < d.1) := by
  induction m with
  | nil => simp [Memory.insertCell]
  | cons e m ih =>
    rw [List.forall_mem_cons] at h
    rw [List.pairwise_cons] at hm
    unfold Memory.insertCell
    split
    · rename_i hle
      rw [List.pairwise_cons]
      have hlt : c.1 < e.1 := by have := h.1; omega
      refine ⟨?_, List.pairwise_cons.2 hm⟩
      intro d hd
      rcases List.mem_cons.1 hd with rfl | hd
      · exact hlt
      · exact hlt.trans (hm.1 d hd)
    · rw [List.pairwise_cons]
      refine ⟨?_, ih h.2 hm.2⟩
      intro d hd
      rcases Memory.mem_insertCell.1 hd with rfl | hd
      · omega
      · exact hm.1 d hd

/-- A write to an address of the space keeps the canonical form. -/
theorem Memory.wf_write {m : Memory} (h : m.wf) {a : Nat} (ha : a < 4096) (b : Byte) :
    (m.write a b).wf := by
  have hp := h.1.filter (fun c => c.1 != a)
  have hc : ∀ c ∈ m.filter (fun c => c.1 != a), c.1 < 4096 ∧ c.2 ≠ Memory.background c.1 :=
    fun c hc => h.2 c (List.mem_of_mem_filter hc)
  unfold Memory.write
  simp only
  split
  · exact ⟨hp, hc⟩
  · rename_i hb
    refine ⟨Memory.insertCell_sorted (by simp) hp, ?_⟩
    intro c hin
    rcases Memory.mem_insertCell.1 hin with rfl | hin
    · exact ⟨ha, hb⟩
    · exact hc c hin

/-- Writing a range inside the space keeps the canonical form. -/
theorem Memory.wf_writeBytes {m : Memory} (h : m.wf) {a : Nat} {bs : List Byte}
    (ha : a + bs.length ≤ 4096) : (m.writeBytes a bs).wf := by
  induction bs generalizing m a with
  | nil => exact h
  | cons b bs ih =>
    simp only [List.length_cons] at ha
    exact ih (Memory.wf_write h (by omega) b) (by omega)

/-- The memory of reset is in its canonical form. -/
theorem Memory.wf_reset : State.reset.mem.wf := by decide

end Sys2Proof.Machine
end

