-- ==== Sys2Proof/Laws/Ops.lean ====
section
/-! SUPPORT. One lemma per shared operation: everything it can answer, and what it leaves. -/

namespace Sys2Proof.Machine

/-! ## The stack -/

/-- A push that goes on: there was room, and one entry and SP changed. -/
theorem State.push_next {s t : State} {w : Word} :
    s.push w = .next t ↔ ∃ h : s.sp.val < 16,
      t = { s with stk := s.stk.set s.sp.val w h, sp := ⟨s.sp.val + 1, Nat.succ_lt_succ h⟩ } := by
  unfold State.push
  split
  · rename_i h
    simp only [Host.Outcome.next.injEq]
    exact ⟨fun e => ⟨h, e.symm⟩, fun ⟨_, e⟩ => e.symm⟩
  · rename_i h
    simp only [raise, reduceCtorEq, false_iff, not_exists]
    exact fun h' => absurd h' h

/-- A push that stops: the stack was full. -/
theorem State.push_fault {s : State} {w : Word} {f : Fault} :
    s.push w = .fault f ↔ s.sp.val = 16 ∧ f = .stackOverflow := by
  unfold State.push
  split
  · simp only [reduceCtorEq, false_iff]; omega
  · have := s.sp.isLt
    simp only [raise, Host.Outcome.fault.injEq]
    constructor
    · rintro rfl; exact ⟨by omega, rfl⟩
    · rintro ⟨_, rfl⟩; rfl

theorem State.push_ne_refused {s : State} {w : Word} {r : Refusal} : s.push w ≠ .refused r := by
  unfold State.push; split <;> simp [raise]

/-- A pop that goes on: the stack was not empty, PC took the top entry and SP went down. -/
theorem State.popToPc_next {s t : State} :
    s.popToPc = .next t ↔ s.sp.val ≠ 0 ∧ ∃ h : s.sp.val - 1 < 16,
      t = { s with pc := s.stackEntry ⟨s.sp.val - 1, h⟩, sp := ⟨s.sp.val - 1, by omega⟩ } := by
  unfold State.popToPc
  split
  · rename_i h; simp [raise, h]
  · rename_i h
    have h' : s.sp.val - 1 < 16 := by omega
    simp only [Host.Outcome.next.injEq]
    exact ⟨fun e => ⟨h, h', e.symm⟩, fun ⟨_, _, e⟩ => e.symm⟩

/-- A pop that stops: the stack was empty. -/
theorem State.popToPc_fault {s : State} {f : Fault} :
    s.popToPc = .fault f ↔ s.sp.val = 0 ∧ f = .stackUnderflow := by
  unfold State.popToPc
  split
  · rename_i h; simp [raise, h, eq_comm]
  · rename_i h; simp [h]

theorem State.popToPc_ne_refused {s : State} {r : Refusal} : s.popToPc ≠ .refused r := by
  unfold State.popToPc; split <;> simp [raise]

/-! ## Checks before an effect -/

/-- The range check in numbers (R76, R416). -/
theorem rangeFits_iff {base : Word} {len : Nat} :
    rangeFits base len = true ↔ len = 0 ∨ base.toNat + len ≤ 0x1000 := by
  simp only [rangeFits, Bool.or_eq_true, beq_iff_eq, decide_eq_true_eq]
  omega

/-- An access that goes on: the range fits, and the access itself answers. -/
theorem withIndexRange_next {s t : State} {len : Nat} {access : Result} :
    withIndexRange s len access = .next t ↔ rangeFits s.index len = true ∧ access = .next t := by
  unfold withIndexRange; split <;> simp_all [raise]

/-- An access that stops: the range does not fit, or the access itself stops. -/
theorem withIndexRange_fault {s : State} {len : Nat} {access : Result} {f : Fault} :
    withIndexRange s len access = .fault f ↔
      (rangeFits s.index len = false ∧ f = .addressOutOfRange s.index len) ∨
      (rangeFits s.index len = true ∧ access = .fault f) := by
  unfold withIndexRange
  split
  · rename_i h; simp [h]
  · rename_i h
    simp only [Bool.not_eq_true] at h
    simp only [h, raise, Host.Outcome.fault.injEq, true_and, Bool.false_eq_true, false_and, or_false]
    exact eq_comm

/-- A key test that goes on: V[x] names a key. -/
theorem withKeyIndex_next {t : State} {k : Byte} {test : Nat → Result} :
    withKeyIndex k test = .next t ↔ k.toNat ≤ 0xF ∧ test k.toNat = .next t := by
  unfold withKeyIndex
  split
  · simp only [raise, reduceCtorEq, false_iff]; omega
  · rename_i h
    exact ⟨fun e => ⟨Nat.le_of_not_lt h, e⟩, fun e => e.2⟩

/-- A key test that stops: V[x] names no key, or the test itself stops. -/
theorem withKeyIndex_fault {k : Byte} {test : Nat → Result} {f : Fault} :
    withKeyIndex k test = .fault f ↔
      (0xF < k.toNat ∧ f = .keyIndexFault k) ∨ (k.toNat ≤ 0xF ∧ test k.toNat = .fault f) := by
  unfold withKeyIndex
  split
  · rename_i h
    simp only [raise, Host.Outcome.fault.injEq, h, true_and]
    exact ⟨fun e => .inl e.symm, fun e => e.elim Eq.symm fun e => absurd e.1 (by omega)⟩
  · rename_i h
    simp [h, show k.toNat ≤ 0xF by omega]

/-! ## The write-back -/

/-- What a register holds after the write-back (R263, R264). -/
theorem State.reg_writeBack (s : State) (x q : Reg) (o : AluOut) :
    (s.writeBack x o).reg q =
      match o.flag with
      | none => if q = x then o.res else s.reg q
      | some f =>
        if q = VF then (if x = VF then vfAsDest s.params.vfDestWinner o.res (flagByte f) else flagByte f)
        else if q = x then o.res else s.reg q := by
  unfold State.writeBack
  cases o.flag with
  | none => simp
  | some f =>
    by_cases h : x = VF
    · subst h
      by_cases hq : q = VF <;> simp [hq]
    · simp [h]

/-- The write-back changes registers only. -/
theorem State.writeBack_eq (s : State) (x : Reg) (o : AluOut) :
    ∃ v, s.writeBack x o = { s with v := v } := by
  unfold State.writeBack
  split
  · exact ⟨_, rfl⟩
  · split
    · exact ⟨_, rfl⟩
    · exact ⟨_, rfl⟩

@[simp] theorem State.writeBack_mem (s : State) (x : Reg) (o : AluOut) :
    (s.writeBack x o).mem = s.mem := by obtain ⟨v, e⟩ := s.writeBack_eq x o; rw [e]
@[simp] theorem State.writeBack_fb (s : State) (x : Reg) (o : AluOut) :
    (s.writeBack x o).fb = s.fb := by obtain ⟨v, e⟩ := s.writeBack_eq x o; rw [e]
@[simp] theorem State.writeBack_index (s : State) (x : Reg) (o : AluOut) :
    (s.writeBack x o).index = s.index := by obtain ⟨v, e⟩ := s.writeBack_eq x o; rw [e]
@[simp] theorem State.writeBack_pc (s : State) (x : Reg) (o : AluOut) :
    (s.writeBack x o).pc = s.pc := by obtain ⟨v, e⟩ := s.writeBack_eq x o; rw [e]
@[simp] theorem State.writeBack_stk (s : State) (x : Reg) (o : AluOut) :
    (s.writeBack x o).stk = s.stk := by obtain ⟨v, e⟩ := s.writeBack_eq x o; rw [e]
@[simp] theorem State.writeBack_sp (s : State) (x : Reg) (o : AluOut) :
    (s.writeBack x o).sp = s.sp := by obtain ⟨v, e⟩ := s.writeBack_eq x o; rw [e]
@[simp] theorem State.writeBack_dt (s : State) (x : Reg) (o : AluOut) :
    (s.writeBack x o).dt = s.dt := by obtain ⟨v, e⟩ := s.writeBack_eq x o; rw [e]
@[simp] theorem State.writeBack_st (s : State) (x : Reg) (o : AluOut) :
    (s.writeBack x o).st = s.st := by obtain ⟨v, e⟩ := s.writeBack_eq x o; rw [e]
@[simp] theorem State.writeBack_params (s : State) (x : Reg) (o : AluOut) :
    (s.writeBack x o).params = s.params := by obtain ⟨v, e⟩ := s.writeBack_eq x o; rw [e]
@[simp] theorem State.writeBack_inputs (s : State) (x : Reg) (o : AluOut) :
    (s.writeBack x o).inputs = s.inputs := by obtain ⟨v, e⟩ := s.writeBack_eq x o; rw [e]
@[simp] theorem State.writeBack_tickCount (s : State) (x : Reg) (o : AluOut) :
    (s.writeBack x o).tickCount = s.tickCount := by obtain ⟨v, e⟩ := s.writeBack_eq x o; rw [e]
@[simp] theorem State.byteAt_writeBack (s : State) (x : Reg) (o : AluOut) (k : Nat) :
    (s.writeBack x o).byteAt k = s.byteAt k := by simp [State.byteAt]
@[simp] theorem State.stackEntry_writeBack (s : State) (x : Reg) (o : AluOut) (j : Fin 16) :
    (s.writeBack x o).stackEntry j = s.stackEntry j := by simp [State.stackEntry]

/-- The write-back leaves every register but the destination and, for a flag writer, VF. -/
theorem State.reg_writeBack_of_ne (s : State) {x q : Reg} {o : AluOut} (hx : q ≠ x)
    (hf : q ≠ VF ∨ o.flag = none) : (s.writeBack x o).reg q = s.reg q := by
  rw [State.reg_writeBack]
  cases h : o.flag with
  | none => simp [hx]
  | some f => simp [hx, hf.resolve_right (by simp [h])]

/-- Taking a key changes one register or PC. -/
theorem State.takeKey_eq (s : State) (x : Reg) (k : Option Nat) :
    (∃ n, k = some n ∧ s.takeKey x k = s.setReg x (BitVec.ofNat 8 n)) ∨
    (k = none ∧ s.takeKey x k = s.setPc (s.pc - 2)) := by
  cases k with
  | none => exact .inr ⟨rfl, rfl⟩
  | some n => exact .inl ⟨n, rfl, rfl⟩

/-! ## The frame buffer -/

/-- A flip changes one pixel. -/
theorem FrameBuffer.pixel_flip (fb : FrameBuffer) (r q : Fin 32) (c d : Fin 64) :
    (FrameBuffer.flip fb r c).pixel q d = (fb.pixel q d ^^ decide (q = r ∧ d = c)) := by
  unfold FrameBuffer.flip FrameBuffer.pixel
  rw [Vector.getElem_set]
  by_cases h : r = q
  · subst h
    by_cases hd : d = c
    · subst hd; simp
    · have hne : ¬ c.val = d.val := fun e => hd (Fin.ext e.symm)
      have hne' : ¬ d.val = c.val := fun e => hne e.symm
      simp [hne', hd]
  · have hne : ¬ r.val = q.val := fun e => h (Fin.ext e)
    have h' : ¬ q = r := fun e => h e.symm
    simp [hne, h']

@[simp] theorem FrameBuffer.pixel_clear (r : Fin 32) (c : Fin 64) :
    FrameBuffer.clear.pixel r c = false := by
  simp [FrameBuffer.clear, FrameBuffer.pixel]

/-- A frame buffer is its pixels. -/
theorem FrameBuffer.ext_pixel {fb gb : FrameBuffer} (h : ∀ r c, fb.pixel r c = gb.pixel r c) : fb = gb := by
  apply Vector.ext
  intro r hr
  apply BitVec.eq_of_getLsbD_eq
  intro c hc
  exact h ⟨r, hr⟩ ⟨c, hc⟩

/-! ## The tick -/

/-- What a tick that goes on has done (R220): the check passed, an instruction was fetched, its meaning went on,
and the timers decayed. -/
theorem step_next {s t : State} :
    step s = .next t ↔
      s.canFetch = true ∧ ∃ i u, s.fetchInstr = some i ∧ exec i s.preAdvance = .next u ∧ t = u.endTick := by
  unfold step
  by_cases hc : s.canFetch = true
  · simp only [hc, if_true, true_and]
    cases hi : s.fetchInstr with
    | none => simp [raise]
    | some i =>
      simp only [Option.some.injEq]
      cases he : exec i s.preAdvance <;> simp [finishTick, he, eq_comm]
  · simp [hc, raise]

/-- How a tick stops (R420): at the PC check, at the dispatch, or in the handler. -/
theorem step_fault {s : State} {f : Fault} :
    step s = .fault f ↔
      (s.canFetch = false ∧ f = .pcFault s.pc) ∨
      (s.canFetch = true ∧ s.fetchInstr = none ∧ f = .decodeFault s.fetchWord) ∨
      (s.canFetch = true ∧ ∃ i, s.fetchInstr = some i ∧ exec i s.preAdvance = .fault f) := by
  unfold step
  by_cases hc : s.canFetch = true
  · simp only [hc, if_true, true_and, Bool.true_eq_false, false_and, false_or]
    cases hi : s.fetchInstr with
    | none => simp [raise, eq_comm]
    | some i => cases he : exec i s.preAdvance <;> simp [finishTick, he]
  · have hc' : s.canFetch = false := by simpa using hc
    simp [hc', raise, eq_comm]

/-- The fetched instruction is the decoding of the fetched word (R72, R222). -/
theorem State.fetchInstr_eq (s : State) : s.fetchInstr = decodeWord s.params.decodeMode s.fetchWord := by
  unfold State.fetchInstr State.fetchBytes State.fetchWord decode
  cases h : decodeWord s.params.decodeMode
    (wordOfBytes (s.byteAt s.pc.toNat) (s.byteAt (s.pc.toNat + 1))) <;> simp [h]

end Sys2Proof.Machine
end

