-- ==== Sys2Proof/Laws/Draw.lean ====
section
/-! SUPPORT. What the pixel loop of draw does over a list of landing places without repeats (R203, R204). -/

namespace Sys2Proof.Machine

/-- After drawing pixels that are all different, each one of them is flipped and every other pixel is as
before. -/
theorem pixel_foldl_drawPixel {l : List (Fin 32 × Fin 64)} (hl : l.Nodup) (acc : FrameBuffer × Bool)
    (r : Fin 32) (c : Fin 64) :
    (l.foldl drawPixel acc).1.pixel r c = (acc.1.pixel r c ^^ decide ((r, c) ∈ l)) := by
  induction l generalizing acc with
  | nil => simp
  | cons p l ih =>
    rw [List.nodup_cons] at hl
    rw [List.foldl_cons, ih hl.2]
    simp only [drawPixel, FrameBuffer.pixel_flip, List.mem_cons]
    by_cases hp : (r, c) = p
    · subst hp; simp [hl.1]
    · have hp' : ¬ (r = p.1 ∧ c = p.2) := fun h => hp (Prod.ext h.1 h.2)
      simp [hp, hp']

/-- The collision after drawing pixels that are all different: one of them was set before, or there was a
collision already. -/
theorem collision_foldl_drawPixel {l : List (Fin 32 × Fin 64)} (hl : l.Nodup) (acc : FrameBuffer × Bool) :
    (l.foldl drawPixel acc).2 = true ↔ acc.2 = true ∨ ∃ p ∈ l, acc.1.pixel p.1 p.2 = true := by
  induction l generalizing acc with
  | nil => simp
  | cons p l ih =>
    rw [List.nodup_cons] at hl
    rw [List.foldl_cons, ih hl.2]
    simp only [drawPixel, FrameBuffer.pixel_flip, Bool.or_eq_true]
    have hne : ∀ q ∈ l, ¬ (q.1 = p.1 ∧ q.2 = p.2) := fun q hq h => hl.1 (Prod.ext h.1 h.2 ▸ hq)
    constructor
    · rintro ((h | h) | ⟨q, hq, h⟩)
      · exact .inl h
      · exact .inr ⟨p, List.mem_cons_self, h⟩
      · exact .inr ⟨q, List.mem_cons_of_mem _ hq, by simpa [hne q hq] using h⟩
    · rintro (h | ⟨q, hq, h⟩)
      · exact .inl (.inl h)
      · rcases List.mem_cons.1 hq with rfl | hq
        · exact .inl (.inr h)
        · exact .inr ⟨q, hq, by simpa [hne q hq] using h⟩

end Sys2Proof.Machine
end

