-- ==== Sys2Proof/Laws/Exec.lean ====
section
/-! SUPPORT. What every meaning can answer: no meaning refuses, and a meaning stops only with the one fault of its
own check. And of what the environment holds it sees this tick's inputs alone. -/

namespace Sys2Proof.Machine

theorem withIndexRange_ne_refused {s : State} {len : Nat} {a : State} {r : Refusal} :
    withIndexRange s len (.next a) ≠ .refused r := by
  unfold withIndexRange; split <;> simp [raise]

theorem withKeyIndex_ne_refused {k : Byte} {test : Nat → State} {r : Refusal} :
    withKeyIndex k (fun n => .next (test n)) ≠ .refused r := by
  unfold withKeyIndex; split <;> simp [raise]

/-- call stops on a full stack only (R228, R414). -/
theorem execCall_fault {s : State} {nnn : Addr12} {f : Fault} :
    execCall nnn s = .fault f ↔ s.sp.val = 16 ∧ f = .stackOverflow := by
  unfold execCall
  rw [← State.push_fault (w := s.pc)]
  cases s.push s.pc <;> simp

/-- A call that goes on has pushed PCn and taken its target (R228). -/
theorem execCall_next {s t : State} {nnn : Addr12} :
    execCall nnn s = .next t ↔ ∃ h : s.sp.val < 16,
      t = { s with
        pc := zextNnn nnn
        stk := s.stk.set s.sp.val s.pc h
        sp := ⟨s.sp.val + 1, Nat.succ_lt_succ h⟩ } := by
  unfold execCall
  cases h : s.push s.pc with
  | next u =>
    obtain ⟨hs, rfl⟩ := State.push_next.1 h
    simp only [Host.Outcome.next.injEq]
    exact ⟨fun e => ⟨hs, e.symm⟩, fun ⟨_, e⟩ => e.symm⟩
  | fault f =>
    have := (State.push_fault.1 h).1
    simp only [reduceCtorEq, false_iff, not_exists]
    intro hs; omega
  | refused r => exact absurd h State.push_ne_refused

/-- No meaning refuses its instruction. -/
theorem exec_ne_refused (i : Instr) (s : State) (r : Refusal) : exec i s ≠ .refused r := by
  cases i
  case draw x y n => exact withIndexRange_ne_refused
  case ret => exact State.popToPc_ne_refused
  case call nnn =>
    simp only [exec, execCall]
    cases h : s.push s.pc with
    | next u => simp
    | fault f => simp
    | refused r => exact absurd h State.push_ne_refused
  case storeBcd x => exact withIndexRange_ne_refused
  case storeRegisters x => exact withIndexRange_ne_refused
  case loadRegisters x => exact withIndexRange_ne_refused
  case skipKey x =>
    exact withKeyIndex_ne_refused (test := fun k => s.skipIf (keyPressed s.input.key k))
  case skipNotKey x =>
    exact withKeyIndex_ne_refused (test := fun k => s.skipIf (!keyPressed s.input.key k))
  all_goals (intro h; cases h)

/-! ## The inputs of the coming ticks -/

/-- The write-back does not look at the inputs of the coming ticks. -/
theorem State.writeBack_withInputs (s : State) (inputs : List TickInput) (n : Nat) (x : Reg) (o : AluOut) :
    (s.withInputs inputs n).writeBack x o = (s.writeBack x o).withInputs inputs n := by
  unfold State.writeBack
  split
  · rfl
  · split <;> rfl

/-- The range check does not look at the inputs of the coming ticks. -/
theorem withIndexRange_withInputs {s a b : State} {inputs : List TickInput} {n len : Nat}
    (h : b = a.withInputs inputs n) :
    withIndexRange (s.withInputs inputs n) len (.next b) =
      mapNext (fun t => t.withInputs inputs n) (withIndexRange s len (.next a)) := by
  have e : (s.withInputs inputs n).index = s.index := rfl
  simp only [withIndexRange, e, h]
  split <;> rfl

/-- A meaning sees of the environment's inputs only those of its own tick. -/
theorem exec_withInputs {i : Instr} {s : State} {inputs : List TickInput} {n : Nat}
    (h : (s.withInputs inputs n).input = s.input) :
    exec i (s.withInputs inputs n) = mapNext (fun t => t.withInputs inputs n) (exec i s) := by
  cases i
  case call nnn =>
    have e : (s.withInputs inputs n).sp = s.sp := rfl
    by_cases hs : s.sp.val < 16
    · simp only [exec, execCall, State.push, e, hs, dif_pos]; rfl
    · simp only [exec, execCall, State.push, e, hs, dif_neg, not_false_eq_true]; rfl
  case ret =>
    have e : (s.withInputs inputs n).sp = s.sp := rfl
    by_cases hs : s.sp.val = 0
    · simp only [exec, execRet, State.popToPc, e, hs, dif_pos]; rfl
    · simp only [exec, execRet, State.popToPc, e, hs, dif_neg, not_false_eq_true]; rfl
  case draw x y k => exact withIndexRange_withInputs (a := _) rfl
  case storeBcd x => exact withIndexRange_withInputs (a := _) rfl
  case storeRegisters x => exact withIndexRange_withInputs (a := _) rfl
  case loadRegisters x => exact withIndexRange_withInputs (a := _) rfl
  case skipKey x =>
    have e : (s.withInputs inputs n).reg x = s.reg x := rfl
    simp only [exec, execSkipKey, h, withKeyIndex, e, State.skipIf]
    split <;> (try split) <;> rfl
  case skipNotKey x =>
    have e : (s.withInputs inputs n).reg x = s.reg x := rfl
    simp only [exec, execSkipNotKey, h, withKeyIndex, e, State.skipIf]
    split <;> (try split) <;> rfl
  case waitKey x =>
    simp only [exec, execWaitKey, h]
    cases lowestKey s.input.key <;> rfl
  case random x kk =>
    simp only [exec, execRandom, h]; rfl
  all_goals first
    | rfl
    | exact congrArg Host.Outcome.next (State.writeBack_withInputs ..)
    | (have e : ∀ r, (s.withInputs inputs n).reg r = s.reg r := fun _ => rfl
       simp only [exec, execSkipEq, execSkipNe, execSkipRegEq, execSkipRegNe, State.skipIf, e]
       split <;> rfl)

end Sys2Proof.Machine
end

