-- ==== Sys2Proof/Laws/PerInstr.lean ====
section
/-! SUPPORT. Facts about every instruction as syntax, one lemma per constructor. Family PublishedWord: the word
the encoder writes has every fixed bit of the instruction's published pattern (30_encoding.md rules R130 and
R140), which is the strictest reading of its row. -/

namespace Sys2Proof

theorem and_formNNN (op o : Nibble) (nnn a : Addr12) :
    formNNN op nnn &&& formNNN o a = formNNN (op &&& o) (nnn &&& a) :=
  BitVec.and_append

/-- Masking the top nibble of a word of format XKK. -/
theorem and_top_formXKK (op : Nibble) (x : Reg) (kk : Byte) :
    formXKK op x kk &&& 0xF000 = (op ++ 0#4 : Byte) ++ 0#8 := by
  have h : (0xF000 : Word) = (0xF#4 ++ 0x0#4 : Byte) ++ 0x00#8 := by decide
  have e : op &&& 0xF#4 = op := BitVec.and_allOnes
  rw [h, formXKK, BitVec.and_append, BitVec.and_append, e]
  simp

/-- Masking all but the register field of a word of format X. -/
theorem and_outer_formXKK (op : Nibble) (x : Reg) (kk : Byte) :
    formXKK op x kk &&& 0xF0FF = (op ++ 0#4 : Byte) ++ kk := by
  have h : (0xF0FF : Word) = (0xF#4 ++ 0x0#4 : Byte) ++ 0xFF#8 := by decide
  have e : op &&& 0xF#4 = op := BitVec.and_allOnes
  have e' : kk &&& 0xFF#8 = kk := BitVec.and_allOnes
  rw [h, formXKK, BitVec.and_append, BitVec.and_append, e, e']
  simp

/-- Masking the top nibble of a word of format XYN. -/
theorem and_top_formXYN (op : Nibble) (x y : Reg) (n : Nibble) :
    formXYN op x y n &&& 0xF000 = (op ++ 0#4 : Byte) ++ 0#8 := by
  have h : (0xF000 : Word) = (0xF#4 ++ 0x0#4 : Byte) ++ (0x0#4 ++ 0x0#4 : Byte) := by decide
  have e : op &&& 0xF#4 = op := BitVec.and_allOnes
  have z : (0#4 ++ 0#4 : Byte) = 0#8 := by decide
  rw [h, formXYN, BitVec.and_append, BitVec.and_append, BitVec.and_append, e, BitVec.and_zero, BitVec.and_zero,
    BitVec.and_zero, z]

/-- Masking the top and the lowest nibble of a word of format XY. -/
theorem and_ends_formXYN (op : Nibble) (x y : Reg) (n : Nibble) :
    formXYN op x y n &&& 0xF00F = formXYN op 0 0 n := by
  have h : (0xF00F : Word) = (0xF#4 ++ 0x0#4 : Byte) ++ (0x0#4 ++ 0xF#4 : Byte) := by decide
  have e : op &&& 0xF#4 = op := BitVec.and_allOnes
  have e' : n &&& 0xF#4 = n := BitVec.and_allOnes
  rw [h, formXYN, BitVec.and_append, BitVec.and_append, BitVec.and_append, e, e', BitVec.and_zero, BitVec.and_zero]
  rfl

/-- Masking the top nibble of a word of format NNN. -/
theorem and_top_formNNN (op : Nibble) (nnn : Addr12) :
    formNNN op nnn &&& 0xF000 = op ++ 0#12 := by
  have h : (0xF000 : Word) = formNNN 0xF#4 0x000#12 := by decide
  have e : op &&& 0xF#4 = op := BitVec.and_allOnes
  rw [h, and_formNNN, e]
  simp [formNNN]

/-- The word of the instruction selects the instruction's row in the strictest reading (R130, R140). -/
def Laws.PublishedWord.Statement (i : Instr) : Prop := selectsRow .strict (handlerOf i) (encode i) = true

theorem Laws.PublishedWord.clearScreen  :
    Laws.PublishedWord.Statement .clearScreen := by unfold Laws.PublishedWord.Statement; decide

theorem Laws.PublishedWord.ret  :
    Laws.PublishedWord.Statement .ret := by unfold Laws.PublishedWord.Statement; decide

theorem Laws.PublishedWord.jump (nnn : Addr12) :
    Laws.PublishedWord.Statement (.jump nnn) := by
  simp only [Laws.PublishedWord.Statement, selectsRow, handlerOf, encode, opcodeRow, and_top_formNNN]; decide

theorem Laws.PublishedWord.call (nnn : Addr12) :
    Laws.PublishedWord.Statement (.call nnn) := by
  simp only [Laws.PublishedWord.Statement, selectsRow, handlerOf, encode, opcodeRow, and_top_formNNN]; decide

theorem Laws.PublishedWord.skipEq (x : Reg) (kk : Byte) :
    Laws.PublishedWord.Statement (.skipEq x kk) := by
  simp only [Laws.PublishedWord.Statement, selectsRow, handlerOf, encode, opcodeRow, and_top_formXKK]; decide

theorem Laws.PublishedWord.skipNe (x : Reg) (kk : Byte) :
    Laws.PublishedWord.Statement (.skipNe x kk) := by
  simp only [Laws.PublishedWord.Statement, selectsRow, handlerOf, encode, opcodeRow, and_top_formXKK]; decide

theorem Laws.PublishedWord.skipRegEq (x y : Reg) :
    Laws.PublishedWord.Statement (.skipRegEq x y) := by
  simp only [Laws.PublishedWord.Statement, selectsRow, handlerOf, encode, opcodeRow, and_ends_formXYN]; decide

theorem Laws.PublishedWord.loadImm (x : Reg) (kk : Byte) :
    Laws.PublishedWord.Statement (.loadImm x kk) := by
  simp only [Laws.PublishedWord.Statement, selectsRow, handlerOf, encode, opcodeRow, and_top_formXKK]; decide

theorem Laws.PublishedWord.addImm (x : Reg) (kk : Byte) :
    Laws.PublishedWord.Statement (.addImm x kk) := by
  simp only [Laws.PublishedWord.Statement, selectsRow, handlerOf, encode, opcodeRow, and_top_formXKK]; decide

theorem Laws.PublishedWord.copy (x y : Reg) :
    Laws.PublishedWord.Statement (.copy x y) := by
  simp only [Laws.PublishedWord.Statement, selectsRow, handlerOf, encode, opcodeRow, and_ends_formXYN]; decide

theorem Laws.PublishedWord.orReg (x y : Reg) :
    Laws.PublishedWord.Statement (.orReg x y) := by
  simp only [Laws.PublishedWord.Statement, selectsRow, handlerOf, encode, opcodeRow, and_ends_formXYN]; decide

theorem Laws.PublishedWord.andReg (x y : Reg) :
    Laws.PublishedWord.Statement (.andReg x y) := by
  simp only [Laws.PublishedWord.Statement, selectsRow, handlerOf, encode, opcodeRow, and_ends_formXYN]; decide

theorem Laws.PublishedWord.xorReg (x y : Reg) :
    Laws.PublishedWord.Statement (.xorReg x y) := by
  simp only [Laws.PublishedWord.Statement, selectsRow, handlerOf, encode, opcodeRow, and_ends_formXYN]; decide

theorem Laws.PublishedWord.addReg (x y : Reg) :
    Laws.PublishedWord.Statement (.addReg x y) := by
  simp only [Laws.PublishedWord.Statement, selectsRow, handlerOf, encode, opcodeRow, and_ends_formXYN]; decide

theorem Laws.PublishedWord.subReg (x y : Reg) :
    Laws.PublishedWord.Statement (.subReg x y) := by
  simp only [Laws.PublishedWord.Statement, selectsRow, handlerOf, encode, opcodeRow, and_ends_formXYN]; decide

theorem Laws.PublishedWord.shiftRight (x y : Reg) :
    Laws.PublishedWord.Statement (.shiftRight x y) := by
  simp only [Laws.PublishedWord.Statement, selectsRow, handlerOf, encode, opcodeRow, and_ends_formXYN]; decide

theorem Laws.PublishedWord.subnReg (x y : Reg) :
    Laws.PublishedWord.Statement (.subnReg x y) := by
  simp only [Laws.PublishedWord.Statement, selectsRow, handlerOf, encode, opcodeRow, and_ends_formXYN]; decide

theorem Laws.PublishedWord.shiftLeft (x y : Reg) :
    Laws.PublishedWord.Statement (.shiftLeft x y) := by
  simp only [Laws.PublishedWord.Statement, selectsRow, handlerOf, encode, opcodeRow, and_ends_formXYN]; decide

theorem Laws.PublishedWord.skipRegNe (x y : Reg) :
    Laws.PublishedWord.Statement (.skipRegNe x y) := by
  simp only [Laws.PublishedWord.Statement, selectsRow, handlerOf, encode, opcodeRow, and_ends_formXYN]; decide

theorem Laws.PublishedWord.loadIndex (nnn : Addr12) :
    Laws.PublishedWord.Statement (.loadIndex nnn) := by
  simp only [Laws.PublishedWord.Statement, selectsRow, handlerOf, encode, opcodeRow, and_top_formNNN]; decide

theorem Laws.PublishedWord.jumpOffset (nnn : Addr12) :
    Laws.PublishedWord.Statement (.jumpOffset nnn) := by
  simp only [Laws.PublishedWord.Statement, selectsRow, handlerOf, encode, opcodeRow, and_top_formNNN]; decide

theorem Laws.PublishedWord.random (x : Reg) (kk : Byte) :
    Laws.PublishedWord.Statement (.random x kk) := by
  simp only [Laws.PublishedWord.Statement, selectsRow, handlerOf, encode, opcodeRow, and_top_formXKK]; decide

theorem Laws.PublishedWord.draw (x y : Reg) (n : Nat) :
    Laws.PublishedWord.Statement (.draw x y n) := by
  simp only [Laws.PublishedWord.Statement, selectsRow, handlerOf, encode, opcodeRow, and_top_formXYN]; decide

theorem Laws.PublishedWord.skipKey (x : Reg) :
    Laws.PublishedWord.Statement (.skipKey x) := by
  simp only [Laws.PublishedWord.Statement, selectsRow, handlerOf, encode, opcodeRow, and_outer_formXKK]; decide

theorem Laws.PublishedWord.skipNotKey (x : Reg) :
    Laws.PublishedWord.Statement (.skipNotKey x) := by
  simp only [Laws.PublishedWord.Statement, selectsRow, handlerOf, encode, opcodeRow, and_outer_formXKK]; decide

theorem Laws.PublishedWord.getDelay (x : Reg) :
    Laws.PublishedWord.Statement (.getDelay x) := by
  simp only [Laws.PublishedWord.Statement, selectsRow, handlerOf, encode, opcodeRow, and_outer_formXKK]; decide

theorem Laws.PublishedWord.waitKey (x : Reg) :
    Laws.PublishedWord.Statement (.waitKey x) := by
  simp only [Laws.PublishedWord.Statement, selectsRow, handlerOf, encode, opcodeRow, and_outer_formXKK]; decide

theorem Laws.PublishedWord.setDelay (x : Reg) :
    Laws.PublishedWord.Statement (.setDelay x) := by
  simp only [Laws.PublishedWord.Statement, selectsRow, handlerOf, encode, opcodeRow, and_outer_formXKK]; decide

theorem Laws.PublishedWord.setSound (x : Reg) :
    Laws.PublishedWord.Statement (.setSound x) := by
  simp only [Laws.PublishedWord.Statement, selectsRow, handlerOf, encode, opcodeRow, and_outer_formXKK]; decide

theorem Laws.PublishedWord.addIndex (x : Reg) :
    Laws.PublishedWord.Statement (.addIndex x) := by
  simp only [Laws.PublishedWord.Statement, selectsRow, handlerOf, encode, opcodeRow, and_outer_formXKK]; decide

theorem Laws.PublishedWord.fontChar (x : Reg) :
    Laws.PublishedWord.Statement (.fontChar x) := by
  simp only [Laws.PublishedWord.Statement, selectsRow, handlerOf, encode, opcodeRow, and_outer_formXKK]; decide

theorem Laws.PublishedWord.storeBcd (x : Reg) :
    Laws.PublishedWord.Statement (.storeBcd x) := by
  simp only [Laws.PublishedWord.Statement, selectsRow, handlerOf, encode, opcodeRow, and_outer_formXKK]; decide

theorem Laws.PublishedWord.storeRegisters (x : Reg) :
    Laws.PublishedWord.Statement (.storeRegisters x) := by
  simp only [Laws.PublishedWord.Statement, selectsRow, handlerOf, encode, opcodeRow, and_outer_formXKK]; decide

theorem Laws.PublishedWord.loadRegisters (x : Reg) :
    Laws.PublishedWord.Statement (.loadRegisters x) := by
  simp only [Laws.PublishedWord.Statement, selectsRow, handlerOf, encode, opcodeRow, and_outer_formXKK]; decide

end Sys2Proof
end

