-- ==== Sys2Proof/Tests/Slice0.lean ====
section
/-! SUPPORT. The model's own tests: the smoke test of WellFormed, words written out from the encodings of R130,
single ticks whose expected results are the vectors of spec/95_test_vectors.md, and for every obligation with
hypotheses a concrete witness that meets them. -/

namespace Sys2Proof.Tests

open Sys2Proof.Machine

/-! ## Helpers -/

/-- The state after Construct with some registers set. -/
def withRegs (l : List (Reg × Byte)) : State := l.foldl (fun s p => s.setReg p.1 p.2) State.reset

/-- A state with bytes stored from `a` on and I at `a`. -/
def withBytes (a : Nat) (bs : List Byte) (s : State) : State :=
  (s.setMem (s.mem.writeBytes a bs)).setIndex (BitVec.ofNat 16 a)

/-- The tick of `s` with this word at PC and these inputs goes on, and its next state satisfies `p`. -/
def ticks (w : Nat) (s : State) (p : State → Bool) (i : TickInput := ⟨0, 0⟩) : Bool :=
  match step ((s.withFetchWord 16 w).supply i) with
  | .next t => p t
  | _ => false

/-- The tick of `s` with this word at PC and these inputs raises `f`. -/
def faults (w : Nat) (s : State) (f : Fault) (i : TickInput := ⟨0, 0⟩) : Bool :=
  match step ((s.withFetchWord 16 w).supply i) with
  | .fault g => g == f
  | _ => false

/-- The answer is a next state that satisfies `p`. -/
def nextIs (r : Result) (p : State → Bool) : Bool :=
  match r with
  | .next t => p t
  | _ => false

/-- The set pixels of a frame buffer are these. -/
def pixelsAre (fb : FrameBuffer) (l : List (Fin 32 × Fin 64)) : Bool :=
  fb == l.foldl (fun fb p => fb.flip p.1 p.2) FrameBuffer.clear

/-- The parameters with DECODE_MODE = STRICT. -/
def strictParams : Params := ⟨.strict, .flag, .strict⟩

/-- KEY with the listed keys pressed. -/
def keys (l : List Nat) : TickInput := ⟨l.foldl (fun k i => k ||| BitVec.twoPow 16 i) 0, 0⟩

/-! ## WellFormed (R105: a sprite height is 0 to 15) -/

theorem test_height_16_refused : (Instr.draw 0 0 16).wellFormed = false := by decide

theorem test_height_15_accepted : (Instr.draw 0 0 15).wellFormed = true := by decide

/-! ## Words written out from R130 (vectors E1 to E46) -/

theorem test_words_display : decodeWord .mux 0x00E0 = some .clearScreen ∧
    decodeWord .mux 0xD125 = some (.draw 1 2 5) := by decide

theorem test_words_control : decodeWord .mux 0x00EE = some .ret ∧ decodeWord .mux 0x1ABC = some (.jump 0xABC) ∧
    decodeWord .mux 0x2FFF = some (.call 0xFFF) ∧ decodeWord .mux 0x3412 = some (.skipEq 4 0x12) ∧
    decodeWord .mux 0x4412 = some (.skipNe 4 0x12) ∧ decodeWord .mux 0x5120 = some (.skipRegEq 1 2) ∧
    decodeWord .mux 0x9120 = some (.skipRegNe 1 2) ∧ decodeWord .mux 0xB123 = some (.jumpOffset 0x123) := by
  decide

theorem test_words_alu_immediate : decodeWord .mux 0x6AFF = some (.loadImm 10 0xFF) ∧
    decodeWord .mux 0x7A01 = some (.addImm 10 0x01) ∧ decodeWord .mux 0xC1FF = some (.random 1 0xFF) := by
  decide

theorem test_words_alu_register : decodeWord .mux 0x8120 = some (.copy 1 2) ∧
    decodeWord .mux 0x8121 = some (.orReg 1 2) ∧ decodeWord .mux 0x8122 = some (.andReg 1 2) ∧
    decodeWord .mux 0x8123 = some (.xorReg 1 2) ∧ decodeWord .mux 0x8124 = some (.addReg 1 2) ∧
    decodeWord .mux 0x8125 = some (.subReg 1 2) ∧ decodeWord .mux 0x8126 = some (.shiftRight 1 2) ∧
    decodeWord .mux 0x8127 = some (.subnReg 1 2) ∧ decodeWord .mux 0x812E = some (.shiftLeft 1 2) := by
  decide

theorem test_words_index_memory : decodeWord .mux 0xA123 = some (.loadIndex 0x123) ∧
    decodeWord .mux 0xF11E = some (.addIndex 1) ∧ decodeWord .mux 0xF129 = some (.fontChar 1) ∧
    decodeWord .mux 0xF133 = some (.storeBcd 1) ∧ decodeWord .mux 0xF155 = some (.storeRegisters 1) ∧
    decodeWord .mux 0xF165 = some (.loadRegisters 1) := by decide

theorem test_words_keys_timers : decodeWord .mux 0xE19E = some (.skipKey 1) ∧
    decodeWord .mux 0xE1A1 = some (.skipNotKey 1) ∧ decodeWord .mux 0xF107 = some (.getDelay 1) ∧
    decodeWord .mux 0xF10A = some (.waitKey 1) ∧ decodeWord .mux 0xF115 = some (.setDelay 1) ∧
    decodeWord .mux 0xF118 = some (.setSound 1) := by decide

theorem test_placeholder_words : [(0x0123 : Word), 0x00E1, 0x8128, 0x812F, 0xE19F, 0xF166, 0xF1FF, 0xF100,
    0xFFFF].all (fun w => (decodeWord .mux w).isNone && (decodeWord .strict w).isNone) = true := rfl

theorem test_alias_words : decodeWord .mux 0x0000 = some .clearScreen ∧
    decodeWord .mux 0x0120 = some .clearScreen ∧ decodeWord .mux 0x012E = some .ret ∧
    decodeWord .mux 0x5121 = some (.skipRegEq 1 2) ∧ decodeWord .mux 0x912F = some (.skipRegNe 1 2) ∧
    decodeWord .mux 0xE10E = some (.skipKey 1) ∧ decodeWord .mux 0xE1B1 = some (.skipNotKey 1) := by decide

theorem test_alias_words_strict : [(0x0000 : Word), 0x0120, 0x012E, 0x5121, 0x912F, 0xE10E, 0xE1B1].all
    (fun w => (decodeWord .strict w).isNone) = true := rfl

theorem test_strict_words : decodeWord .strict 0x00E0 = some .clearScreen ∧
    decodeWord .strict 0x00EE = some .ret ∧ decodeWord .strict 0x5120 = some (.skipRegEq 1 2) ∧
    decodeWord .strict 0x9120 = some (.skipRegNe 1 2) ∧ decodeWord .strict 0xE19E = some (.skipKey 1) ∧
    decodeWord .strict 0xE1A1 = some (.skipNotKey 1) := by decide

theorem test_assembler : asmText (.draw 0 1 5) = "draw V0, V1, 5" ∧ asmText (.skipEq 3 0x12) = "skip-eq V3, 0x12" ∧
    asmText (.call 0x204) = "call 0x204" ∧ conventionalText (.loadRegisters 15) = "LD VF, [I]" ∧
    asmText (.shiftRight 0 1) = "shift-right V0" ∧ asmWord (.shiftRight 0 1) = 0x8006 := by decide

theorem test_encode : encode (.draw 1 2 5) = 0xD125 ∧ encode (.shiftRight 2 0) = 0x8206 ∧
    encode .ret = 0x00EE ∧ encode (.skipNotKey 1) = 0xE1A1 ∧ encode (.jumpOffset 0x123) = 0xB123 := by decide

theorem test_table_word : decodeTableWord 16 0xD125 = some (.draw 1 2 5) ∧
    decodeTableWord 16 0x8128 = none := by decide

/-! ## ALU (vectors A1 to A41) -/

theorem test_A1 : ticks 0x8014 (withRegs [(0, 0x0A), (1, 0x05)])
    (fun t => t.reg 0 == 0x0F && t.reg VF == 0 && t.pc == 0x202) := by decide

theorem test_A2 : ticks 0x8014 (withRegs [(0, 0xFF), (1, 0x01)])
    (fun t => t.reg 0 == 0 && t.reg VF == 1) := by decide

theorem test_A9 : ticks 0x8015 (withRegs [(0, 0x03), (1, 0x05)])
    (fun t => t.reg 0 == 0xFE && t.reg 1 == 0x05 && t.reg VF == 0) := by decide

theorem test_A13 : ticks 0x8F15 (withRegs [(1, 0x03), (15, 0x05)]) (fun t => t.reg VF == 0x01) ∧
    ticks 0x8F15 ((withRegs [(1, 0x03), (15, 0x05)]).withParams ⟨.mux, .result, .strict⟩)
      (fun t => t.reg VF == 0x02) := by decide

theorem test_A14 : ticks 0x8017 (withRegs [(0, 0x03), (1, 0x05)])
    (fun t => t.reg 0 == 0x02 && t.reg VF == 1) := by decide

theorem test_A17 : ticks 0x8017 (withRegs [(0, 0x09), (1, 0x09)])
    (fun t => t.reg 0 == 0 && t.reg VF == 1) := by decide

theorem test_A21 : ticks 0x8006 (withRegs [(0, 0xFF)])
    (fun t => t.reg 0 == 0x7F && t.reg VF == 1) := by decide

theorem test_A22 : ticks 0x8016 (withRegs [(0, 0x04), (1, 0x80)])
    (fun t => t.reg 0 == 0x02 && t.reg 1 == 0x80 && t.reg VF == 0) := by decide

theorem test_A24 : ticks 0x820E (withRegs [(2, 0x81)])
    (fun t => t.reg 2 == 0x02 && t.reg VF == 1) := by decide

theorem test_A28 : ticks 0x8F0E (withRegs [(15, 0x81)]) (fun t => t.reg VF == 0x01) ∧
    ticks 0x8F0E ((withRegs [(15, 0x81)]).withParams ⟨.mux, .result, .strict⟩)
      (fun t => t.reg VF == 0x02) := by decide

theorem test_A29 : ticks 0x8011 (withRegs [(0, 0x0F), (1, 0xF0), (15, 0x55)])
    (fun t => t.reg 0 == 0xFF && t.reg VF == 0x55) := by decide

theorem test_A30 : ticks 0x8012 (withRegs [(0, 0x3C), (1, 0x0F), (15, 0x55)])
    (fun t => t.reg 0 == 0x0C && t.reg VF == 0x55) := by decide

theorem test_A31 : ticks 0x8013 (withRegs [(0, 0x3C), (1, 0x0F), (15, 0x55)])
    (fun t => t.reg 0 == 0x33 && t.reg VF == 0x55) := by decide

theorem test_A34 : ticks 0x8410 (withRegs [(1, 0x33)]) (fun t => t.reg 4 == 0x33 && t.reg 1 == 0x33) := by decide

theorem test_A36 : ticks 0x6F07 State.reset (fun t => t.reg VF == 0x07) := by decide

theorem test_A37 : ticks 0x7203 (withRegs [(2, 0xFE), (15, 0x07)])
    (fun t => t.reg 2 == 0x01 && t.reg VF == 0x07) := by decide

theorem test_A39 : ticks 0xC30F State.reset (fun t => t.reg 3 == 0x07) ⟨0, 0xB7⟩ := by decide

/-! ## Control flow (vectors C1 to C20) -/

theorem test_C1 : ticks 0x3312 (withRegs [(3, 0x12)]) (fun t => t.pc == 0x204) := by decide

theorem test_C3 : ticks 0x4312 (withRegs [(3, 0x12)]) (fun t => t.pc == 0x202) := by decide

theorem test_C6 : ticks 0x5110 (withRegs [(1, 0x09)]) (fun t => t.pc == 0x204) := by decide

theorem test_C7 : ticks 0x9120 (withRegs [(1, 0x07), (2, 0x08)]) (fun t => t.pc == 0x204) := by decide

theorem test_C10 : faults 0x5121 ((withRegs [(1, 0x07), (2, 0x07)]).withParams strictParams)
    (.decodeFault 0x5121) := by decide

theorem test_C12 : ticks 0x1345 State.reset (fun t => t.pc == 0x345) := by decide

theorem test_C14 : ticks 0x2204 { State.reset with sp := 15 }
    (fun t => t.pc == 0x204 && t.sp == 16 && t.stackEntry 15 == 0x202) := by decide

theorem test_C15 : faults 0x2204 { State.reset with sp := 16 } .stackOverflow := by decide

theorem test_C16 : ticks 0x00EE { State.reset with sp := 1, stk := State.reset.stk.set 0 0x202 }
    (fun t => t.pc == 0x202 && t.sp == 0 && t.stackEntry 0 == 0x202) := by decide

theorem test_C17 : faults 0x00EE State.reset .stackUnderflow := by decide

theorem test_C19 : ticks 0xBFFF (withRegs [(0, 0xFF)]) (fun t => t.pc == 0x10FE) := by decide

/-! ## Index register and memory (vectors M1 to M20) -/

theorem test_M1 : ticks 0xA2F0 State.reset (fun t => t.index == 0x2F0) := by decide

theorem test_M3 : ticks 0xF21E ((withRegs [(2, 0x01), (15, 0x77)]).setIndex 0xFFFF)
    (fun t => t.index == 0 && t.reg VF == 0x77) := by decide

theorem test_M7 : ticks 0xF129 (withRegs [(1, 0xFF)]) (fun t => t.index == 0x4FB) := by decide

theorem test_M8 : ticks 0xF333 ((withRegs [(3, 0x9C)]).setIndex 0x300)
    (fun t => t.mem.readBytes 0x2FF 5 == [0, 1, 5, 6, 0] && t.index == 0x300) := by decide

theorem test_M13 : faults 0xF333 ((withRegs [(3, 0x2A)]).setIndex 0xFFE) (.addressOutOfRange 0xFFE 3) := by
  decide

theorem test_M14 : ticks 0xF255 ((withRegs [(0, 1), (1, 2), (2, 3), (3, 9)]).setIndex 0x400)
    (fun t => t.mem.readBytes 0x400 4 == [1, 2, 3, 0] && t.index == 0x400) := by decide

theorem test_M15 : ticks 0xFF55 ((withRegs [(0, 0xAA), (15, 0xBB)]).setIndex 0xFF0)
    (fun t => t.byteAt 0xFF0 == 0xAA && t.byteAt 0xFFF == 0xBB) := by decide

theorem test_M17 : ticks 0xF265 (withBytes 0x400 [7, 8, 9, 10] (withRegs [(3, 0x55)]))
    (fun t => t.regsUpTo 3 == [7, 8, 9, 0x55] && t.index == 0x400) := by decide

theorem test_M20 : ticks 0xF165 State.reset (fun t => t.reg 0 == 0xF0 && t.reg 1 == 0x90) := by decide

/-! ## Display (vectors G1 to G11) -/

theorem test_G3 : ticks 0xD012 (withBytes 0x300 [0xFF, 0x81] (withRegs [(0, 62), (1, 31)]))
    (fun t => t.reg VF == 0 && pixelsAre t.fb [(0, 5), (0, 62), (31, 0), (31, 1), (31, 2), (31, 3), (31, 4),
      (31, 5), (31, 62), (31, 63)]) := by decide

theorem test_G6 : ticks 0xD011 ((withBytes 0x300 [0xC0] State.reset).setFb
      ((FrameBuffer.clear.flip 0 1).flip 0 5))
    (fun t => t.reg VF == 1 && pixelsAre t.fb [(0, 0), (0, 5)]) := by decide

theorem test_G11 : ticks 0x00E0 ((withRegs [(15, 9)]).setFb ((FrameBuffer.clear.flip 3 4).flip 31 63))
    (fun t => t.reg VF == 9 && pixelsAre t.fb []) := by decide

/-! ## Keys and timers (vectors K1 to K18) -/

theorem test_K1 : ticks 0xE19E (withRegs [(1, 3)]) (fun t => t.pc == 0x204) (keys [3]) := by decide

theorem test_K3 : faults 0xE19E (withRegs [(1, 0x10)]) (.keyIndexFault 0x10) ⟨0xFFFF, 0⟩ := by decide

theorem test_K5 : ticks 0xE1A1 (withRegs [(1, 3)]) (fun t => t.pc == 0x202) (keys [3]) := by decide

theorem test_K6 : faults 0xE1A1 (withRegs [(1, 0xFF)]) (.keyIndexFault 0xFF) := by decide

theorem test_K7 : ticks 0xF50A ((withRegs [(5, 0x77)]).setDt 2)
    (fun t => t.pc == 0x200 && t.reg 5 == 0x77 && t.dt == 1) := by decide

theorem test_K9 : ticks 0xF50A State.reset (fun t => t.pc == 0x202 && t.reg 5 == 9) (keys [9, 12]) := by decide

theorem test_K12 : ticks 0xF407 (State.reset.setDt 0x10)
    (fun t => t.reg 4 == 0x10 && t.dt == 0x0F) := by decide

theorem test_K14 : ticks 0xF415 (withRegs [(4, 5)]) (fun t => t.dt == 4 && t.st == 0) := by decide

theorem test_K17 : ticks 0xF418 (withRegs [(4, 2)]) (fun t => t.st == 1 && t.dt == 0) := by decide

theorem test_K18 : ticks 0x6001 ((State.reset.setDt 1).setSt 0xFF)
    (fun t => t.dt == 0 && t.st == 0xFE) := by decide

/-! ## PC check (vectors S2 to S6) -/

theorem test_S2 : step (State.reset.setPc 0x201) = .fault (.pcFault 0x201) := rfl

theorem test_S3 : ticks 0x1203 ((State.reset.setPc 0x203).withParams ⟨.mux, .flag, .bounds⟩)
    (fun t => t.pc == 0x203) := by decide

theorem test_S6 : ticks 0x6A42 (State.reset.setPc 0xFFE) (fun t => t.pc == 0x1000 && t.reg 10 == 0x42) := by decide

/-! ## Witnesses: the hypotheses of each obligation are met -/

/-- The state after Construct with this word at PC. -/
def at200 (w : Nat) : State := State.reset.withFetchWord 16 w

/-- The longest program and one byte more. -/
theorem witness_ConstructFillsEveryField : (List.replicate 3584 (7 : Byte)).length ≤ 3584 ∧
    3584 < (List.replicate 3585 (7 : Byte)).length ∧
    (∃ t, construct Params.default defaultFontTable [] = .ok t) ∧
    Params.default.decodeMode = .mux ∧ strictParams.decodeMode = .strict ∧
    (∃ t, construct strictParams defaultFontTable [] = .ok t) :=
  ⟨(List.length_replicate ..).le, by rw [List.length_replicate]; decide, ⟨_, rfl⟩, rfl, rfl, ⟨_, rfl⟩⟩

theorem witness_IllegalWordsRaiseDecodeFault :
    ((at200 0x8128).canFetch = true ∧ (at200 0x8128).params.decodeMode = .mux ∧
      step (at200 0x8128) = .fault (.decodeFault 0x8128)) ∧
    (((at200 0x5121).withParams strictParams).canFetch = true ∧
      ((at200 0x5121).withParams strictParams).params.decodeMode = .strict ∧
      step ((at200 0x5121).withParams strictParams) = .fault (.decodeFault 0x5121)) :=
  ⟨⟨by decide, rfl, rfl⟩, ⟨by decide, rfl, rfl⟩⟩

theorem witness_StrictDecodingRestrictsMux : decodeWord .strict 0xE19E = some (.skipKey 1) ∧
    decodeWord .mux 0xE10E ≠ none ∧ decodeWord .strict 0xE10E = none := by decide

theorem witness_DecodeAfterEncode : (Instr.draw 15 15 15).wellFormed = true ∧
    (Instr.draw 0 0 0).wellFormed = true := by decide

theorem witness_EncodeAfterStrictDecode : decodeWord .mux 0x0120 = some .clearScreen ∧
    decodeWord .strict 0x812E = some (.shiftLeft 1 2) := by decide

theorem witness_StepRunsTheDecodedInstruction : (at200 0xD125).canFetch = true ∧
    decode (at200 0xD125).params.decodeMode (at200 0xD125).fetchBytes = .ok (.draw 1 2 5, []) :=
  ⟨by decide, rfl⟩

theorem witness_EncodedBytesAtPcRun : (Instr.draw 1 2 5).wellFormed = true ∧ (at200 0xD125).canFetch = true ∧
    (at200 0xD125).fetchBytes = encodeBytes (.draw 1 2 5) := by decide

/-- The boundary values of the PC check: 0x1FE, 0x1FF, 0x200, 0xFFE, 0xFFF, 0x1000. -/
theorem witness_PcCheckAtFetch :
    step (State.reset.setPc 0x1FE) = .fault (.pcFault 0x1FE) ∧
    step (State.reset.setPc 0xFFF) = .fault (.pcFault 0xFFF) ∧
    nextIs (step (State.reset.setPc 0xFFE)) (fun t => t.pc == 0x1000) ∧
    State.reset.params.pcCheck = .strict ∧
    step ((State.reset.withParams ⟨.mux, .flag, .bounds⟩).setPc 0xFFF) = .fault (.pcFault 0xFFF) ∧
    nextIs (step ((State.reset.withParams ⟨.mux, .flag, .bounds⟩).setPc 0x1FF)) (fun t => t.pc == 0x201) ∧
    (State.reset.withParams ⟨.mux, .flag, .bounds⟩).params.pcCheck = .bounds :=
  ⟨rfl, rfl, by decide, rfl, rfl, by decide, rfl⟩

theorem witness_EveryFaultHasItsCause : step (at200 0x00EE) = .fault .stackUnderflow ∧
    step ((at200 0xF333).setIndex 0xFFE) = .fault (.addressOutOfRange 0xFFE 3) ∧
    step ((at200 0xE19E).setReg 1 0x10) = .fault (.keyIndexFault 0x10) := ⟨rfl, rfl, rfl⟩

/-- Each range check at its first failing value. -/
theorem witness_HandlersCheckBeforeTheyAct :
    exec (.call 0x204) { State.reset with sp := 16 } = .fault .stackOverflow ∧
    exec .ret State.reset = .fault .stackUnderflow ∧
    (2 ≤ 15 ∧ exec (.draw 0 1 2) (State.reset.setIndex 0xFFF) = .fault (.addressOutOfRange 0xFFF 2)) ∧
    exec (.storeBcd 3) (State.reset.setIndex 0xFFE) = .fault (.addressOutOfRange 0xFFE 3) ∧
    exec (.storeRegisters 15) (State.reset.setIndex 0xFF1) = .fault (.addressOutOfRange 0xFF1 16) ∧
    exec (.loadRegisters 1) (State.reset.setIndex 0xFFF) = .fault (.addressOutOfRange 0xFFF 2) ∧
    exec (.skipKey 1) (withRegs [(1, 0x10)]) = .fault (.keyIndexFault 0x10) ∧
    exec (.skipNotKey 1) (withRegs [(1, 0x10)]) = .fault (.keyIndexFault 0x10) :=
  ⟨rfl, rfl, ⟨by decide, rfl⟩, rfl, rfl, rfl, rfl, rfl⟩

theorem witness_FaultingTickChangesNothing : step (at200 0x8128) = .fault (.decodeFault 0x8128) ∧
    ∃ t, step (at200 0x6001) = .next t := ⟨rfl, ⟨_, rfl⟩⟩

theorem witness_TimersDecayOncePerTick : (at200 0xF415).fetchInstr = some (.setDelay 4) ∧
    (∃ t, step (at200 0xF415) = .next t) ∧ (at200 0xF418).fetchInstr = some (.setSound 4) ∧
    (∃ t, step (at200 0xF418) = .next t) ∧ (at200 0x00EE).fetchInstr = some .ret ∧
    step ((at200 0x00EE).setDt 5) = .fault .stackUnderflow ∧
    ∃ u st, tick ((at200 0x00EE).setDt 5) = some (u, st) :=
  ⟨by decide, ⟨_, rfl⟩, by decide, ⟨_, rfl⟩, by decide, rfl, ⟨_, _, rfl⟩⟩

theorem witness_PcAfterEveryTick : (at200 0x1ABC).fetchInstr = some (.jump 0xABC) ∧
    (∃ t, step (at200 0x1ABC) = .next t) ∧ (at200 0x00EE).fetchInstr = some .ret ∧
    step (at200 0x00EE) = .fault .stackUnderflow ∧ ∃ u st, tick (at200 0x00EE) = some (u, st) :=
  ⟨by decide, ⟨_, rfl⟩, by decide, rfl, ⟨_, _, rfl⟩⟩

theorem witness_OnlyInputReadersDependOnInputs : readsInput (.draw 0 1 5) = false ∧
    readsInput (.getDelay 4) = false := by decide

theorem witness_EachUnitHasItsWriters : (∃ t, exec (.addReg 0 1) State.reset = .next t) ∧
    (∀ x, Instr.addReg 0 1 ≠ .storeBcd x) ∧ (∀ x, Instr.addReg 0 1 ≠ .storeRegisters x) ∧
    Instr.addReg 0 1 ≠ .clearScreen ∧ (∀ x y n, Instr.addReg 0 1 ≠ .draw x y n) ∧
    Instr.addReg 0 1 ≠ .ret ∧ (∀ nnn, Instr.addReg 0 1 ≠ .call nnn) ∧
    (∀ nnn, Instr.addReg 0 1 ≠ .loadIndex nnn) ∧ (∀ x, Instr.addReg 0 1 ≠ .addIndex x) ∧
    (∀ x, Instr.addReg 0 1 ≠ .fontChar x) ∧ (∀ x, Instr.addReg 0 1 ≠ .setDelay x) ∧
    (∀ x, Instr.addReg 0 1 ≠ .setSound x) := ⟨⟨_, rfl⟩, by simp⟩

theorem witness_RegistersOutsideTheTableAreKept : (∃ t, exec (.loadRegisters 2) State.reset = .next t) ∧
    writesReg (.loadRegisters 2) 3 = false := ⟨⟨_, rfl⟩, by decide⟩

/-- A state in the middle of a program, one return address on the stack. -/
def inCall : State := { at200 0x00EE with sp := 1, stk := State.reset.stk.set 0 0x202 }

theorem inCall_inv : inCall.Inv where
  memCanonical := by decide
  pcBound := by decide
  stackBound := by decide
  returnsAligned := fun _ => by decide

theorem witness_TickKeepsTheInvariant : inCall.Inv ∧ ∃ t, step inCall = .next t := ⟨inCall_inv, ⟨_, rfl⟩⟩

theorem witness_ConstructMeetsTheInvariant :
    ∃ t, construct strictParams defaultFontTable [0x12, 0x00] = .ok t := ⟨_, rfl⟩

theorem witness_StrictTickIsATickInEveryMode :
    ∃ t, step ((at200 0x6005).withParams ⟨.strict, .result, .strict⟩) = .next t := ⟨_, rfl⟩

theorem witness_ParametersMatterOnlyForVfAsDestination : flagWriterIntoVf (.addReg 0 15) = false ∧
    flagWriterIntoVf (.orReg 15 0) = false := by decide

/-- I = 0xFFF with heights 2 and 1; a collision and none. -/
theorem witness_DrawXorsTheSpriteAndReportsCollision : (2 : Nat) ≤ 15 ∧
    (0 < 2 ∧ 0xFFF < (State.reset.setIndex 0xFFF).index.toNat + 2 - 1) ∧
    ¬ (0 < 1 ∧ 0xFFF < (State.reset.setIndex 0xFFF).index.toNat + 1 - 1) ∧
    ¬ (0 < 0 ∧ 0xFFF < (State.reset.setIndex 0xFFFF).index.toNat + 0 - 1) ∧
    (let s := State.reset.setFb (FrameBuffer.clear.flip 0 0)
     ∃ pr pc, spriteBitAt s 5 ((s.reg 0).toNat % 64) ((s.reg 1).toNat % 32) pr pc = true ∧
       s.fb.pixel pr pc = true) ∧
    ¬ ∃ pr pc, spriteBitAt State.reset 5 ((State.reset.reg 0).toNat % 64) ((State.reset.reg 1).toNat % 32) pr pc
      = true ∧ State.reset.fb.pixel pr pc = true := by
  refine ⟨by decide, by decide, by decide, by decide, ⟨0, 0, by decide⟩, ?_⟩
  rintro ⟨pr, pc, _, h⟩
  simp [FrameBuffer.pixel, State.reset] at h

/-- G1 and G2: the glyph of 0 drawn twice on a clear screen. -/
theorem witness_DrawingTwiceErases : (0 : Reg) ≠ VF ∧ (1 : Reg) ≠ VF ∧ (5 : Nat) ≤ 15 ∧
    (∃ t, exec (.draw 0 1 5) State.reset = .next t ∧ t.reg VF = 0 ∧
      ∃ u, exec (.draw 0 1 5) t = .next u ∧ u.reg VF = 1) ∧
    (∀ r c, State.reset.fb.pixel r c = false) := by
  refine ⟨by decide, by decide, by decide, ⟨_, rfl, by decide, _, rfl, by decide⟩, fun r c => ?_⟩
  simp [FrameBuffer.pixel, State.reset]

theorem witness_CallPushesTheReturnAddress : ({ State.reset with sp := 16 } : State).sp = 16 ∧
    ({ State.reset with sp := 15 } : State).sp ≠ 16 ∧
    (15 : Fin 16).val = ({ State.reset with sp := 15 } : State).sp.val := by decide

theorem witness_ReturnTakesTheTopEntry : State.reset.sp = 0 ∧ ({ State.reset with sp := 16 } : State).sp ≠ 0 ∧
    (15 : Fin 16).val + 1 = ({ State.reset with sp := 16 } : State).sp.val ∧
    (0 : Fin 16).val + 1 = ({ State.reset with sp := 1 } : State).sp.val := by decide

theorem witness_CallThenReturnComesBack :
    ∃ t, exec (.call 0x204) { State.reset with sp := 15 } = .next t := ⟨_, rfl⟩

theorem witness_SelfJumpOnlyDecaysTheTimers : (at200 0x1200).canFetch = true ∧
    (at200 0x1200).fetchInstr = some (.jump 0x200) ∧ (0x200 : Addr12).toNat = (at200 0x1200).pc.toNat := by decide

theorem witness_FlagWriterIdentities : (0 : Reg) ≠ VF ∧ (∃ t, exec (.addReg 0 15) State.reset = .next t) ∧
    (∃ t, exec (.subReg 0 15) State.reset = .next t) ∧ (∃ t, exec (.subnReg 0 15) State.reset = .next t) ∧
    (∃ t, exec (.shiftRight 0 15) State.reset = .next t) ∧
    ∃ t, exec (.shiftLeft 0 15) State.reset = .next t :=
  ⟨by decide, ⟨_, rfl⟩, ⟨_, rfl⟩, ⟨_, rfl⟩, ⟨_, rfl⟩, ⟨_, rfl⟩⟩

theorem witness_StoreBcdWritesDecimalDigits : 0xFFF < (State.reset.setIndex 0xFFE).index.toNat + 2 ∧
    (State.reset.setIndex 0xFFD).index.toNat + 2 ≤ 0xFFF := by decide

theorem witness_StoreRegistersWritesTheBank :
    0xFFF < (State.reset.setIndex 0xFF1).index.toNat + (15 : Reg).val ∧
    (State.reset.setIndex 0xFF0).index.toNat + (15 : Reg).val ≤ 0xFFF ∧ (15 : Reg) ≤ 15 := by decide

theorem witness_LoadRegistersReadsTheBank :
    0xFFF < (State.reset.setIndex 0xFFF).index.toNat + (1 : Reg).val ∧
    (State.reset.setIndex 0xFFF).index.toNat + (0 : Reg).val ≤ 0xFFF ∧ (0 : Reg) ≤ 0 := by decide

theorem witness_StoredBankComesBack : ∃ t u : State, exec (.storeRegisters 1) (withBytes 0x300 [] State.reset) = .next t ∧
    u.mem = t.mem ∧ u.index = (withBytes 0x300 [] State.reset).index ∧ u.reg 0 ≠ t.reg 0 :=
  ⟨_, State.setReg (State.setMem (withBytes 0x300 [] State.reset)
    ((withBytes 0x300 [] State.reset).mem.writeBytes 0x300 [0, 0])) 0 9, rfl, rfl, rfl, by decide⟩

theorem witness_StoreReachesTheNextFetch : (1 : Nat) ≤ (1 : Reg).val ∧
    (State.reset.setIndex 0x200).index = (State.reset.setIndex 0x200).pc ∧
    ∃ t, exec (.storeRegisters 1) (State.reset.setIndex 0x200) = .next t := ⟨by decide, rfl, ⟨_, rfl⟩⟩

theorem witness_EqualReadsAreEqualMemories : Memory.wf [(0x300, 1), (0x400, 2)] ∧
    Memory.wf (Memory.write (Memory.write [] 0x400 2) 0x300 1) ∧
    Memory.write (Memory.write [] 0x400 2) 0x300 1 = [(0x300, 1), (0x400, 2)] := by decide

theorem witness_KeySkipsTestTheNamedKey : 0xF < ((withRegs [(1, 0x10)]).reg 1).toNat ∧
    ((withRegs [(1, 0xF)]).reg 1).toNat ≤ 0xF := by decide

theorem witness_WaitKeyTakesTheLowestKey : (State.reset.supply (keys [])).input.key = 0 ∧
    (State.reset.supply (keys [15])).input.key ≠ 0 ∧ (State.reset.supply ⟨0xFFFF, 0⟩).input.key ≠ 0 := by decide

theorem witness_BlockedWaitKeyKeepsPolling : ((at200 0xF50A).supply (keys [])).canFetch = true ∧
    ((at200 0xF50A).supply (keys [])).fetchInstr = some (.waitKey 5) ∧
    ((at200 0xF50A).supply (keys [])).input.key = 0 := by decide

/-- Two inputs lined up: a tick of skip-key takes the first and leaves the second; the core's state is that of the
tick given that input alone. -/
theorem witness_TickIsAFunctionOfStateAndInputs :
    let s := (((at200 0xE19E).setReg 1 3).supply (keys [4])).supply (keys [3])
    nextIs (step s) (fun t => t.pc == 0x204 && t.inputs == [keys [4]]) ∧
    (tickOf s.params s.toMachineState (keys [3])).map (fun r => (r.1.pc, r.2)) = some (0x204, .ok) := by decide

end Sys2Proof.Tests
end

section
/-! SUPPORT. The parameters of R8 as a refinement and a frame: what looks at them and what does not (R117, R132,
R223, R264), and the two statements of 00_scope.md about them. -/

namespace Sys2Proof.Machine

/-! ## Operations that do not look at the parameters -/

@[simp] theorem State.reg_withParams (s : State) (p : Params) (r : Reg) : (s.withParams p).reg r = s.reg r := rfl

@[simp] theorem State.input_withParams (s : State) (p : Params) : (s.withParams p).input = s.input := rfl

@[simp] theorem State.params_withParams (s : State) (p : Params) : (s.withParams p).params = p := rfl

@[simp] theorem State.fetchWord_withParams (s : State) (p : Params) :
    (s.withParams p).fetchWord = s.fetchWord := rfl

@[simp] theorem State.preAdvance_withParams (s : State) (p : Params) :
    (s.withParams p).preAdvance = s.preAdvance.withParams p := rfl

@[simp] theorem State.endTick_withParams (s : State) (p : Params) :
    (s.withParams p).endTick = s.endTick.withParams p := rfl

@[simp] theorem State.withParams_withParams (s : State) (p q : Params) :
    (s.withParams p).withParams q = s.withParams q := rfl

@[simp] theorem State.skipIf_withParams (s : State) (p : Params) (c : Bool) :
    (s.withParams p).skipIf c = (s.skipIf c).withParams p := by
  cases c <;> rfl

@[simp] theorem State.takeKey_withParams (s : State) (p : Params) (x : Reg) (k : Option Nat) :
    (s.withParams p).takeKey x k = (s.takeKey x k).withParams p := by
  cases k <;> rfl

theorem State.push_withParams (s : State) (p : Params) (w : Word) :
    (s.withParams p).push w = mapNext (fun t => t.withParams p) (s.push w) := by
  have e : (s.withParams p).sp = s.sp := rfl
  unfold State.push
  by_cases h : s.sp.val < 16
  · simp only [e, h, dif_pos]; rfl
  · simp only [e, h, dif_neg, not_false_eq_true]; rfl

theorem State.popToPc_withParams (s : State) (p : Params) :
    (s.withParams p).popToPc = mapNext (fun t => t.withParams p) s.popToPc := by
  have e : (s.withParams p).sp = s.sp := rfl
  unfold State.popToPc
  by_cases h : s.sp.val = 0
  · simp only [e, h, dif_pos]; rfl
  · simp only [e, h, dif_neg, not_false_eq_true]; rfl

theorem execCall_withParams (s : State) (p : Params) (nnn : Addr12) :
    execCall nnn (s.withParams p) = mapNext (fun t => t.withParams p) (execCall nnn s) := by
  have e : (s.withParams p).pc = s.pc := rfl
  simp only [execCall, e, State.push_withParams]
  cases s.push s.pc <;> rfl

/-- The range check does not look at the parameters. -/
theorem withIndexRange_withParams {s t u : State} {p : Params} {len : Nat} (h : u = t.withParams p) :
    withIndexRange (s.withParams p) len (.next u) =
      mapNext (fun t => t.withParams p) (withIndexRange s len (.next t)) := by
  have e : (s.withParams p).index = s.index := rfl
  simp only [withIndexRange, e, h]
  split <;> rfl

/-- The key check does not look at the parameters. -/
theorem withKeyIndex_withParams (k : Byte) (test : Nat → State) (p : Params) :
    withKeyIndex k (fun n => .next ((test n).withParams p)) =
      mapNext (fun t => t.withParams p) (withKeyIndex k fun n => .next (test n)) := by
  unfold withKeyIndex
  split <;> rfl

/-! ## Where VF_DEST_WINNER matters -/

/-- The write-back looks at the parameters only where a flag and the result meet in VF, and there only at
VF_DEST_WINNER (R264). -/
theorem State.writeBack_withParams {s : State} {p : Params} {x : Reg} {o : AluOut}
    (h : o.flag = none ∨ (x == VF) = false ∨ p.vfDestWinner = s.params.vfDestWinner) :
    (s.withParams p).writeBack x o = (s.writeBack x o).withParams p := by
  unfold State.writeBack
  cases hf : o.flag with
  | none => rfl
  | some f =>
    by_cases hx : x = VF
    · have hw : p.vfDestWinner = s.params.vfDestWinner := by simpa [hf, hx] using h
      simp only [hx, if_true, State.params_withParams, hw]; rfl
    · simp only [hx, if_false]; rfl

/-- A meaning does not look at the parameters, unless it is a flag writer into VF; then VF_DEST_WINNER is all it
looks at (R264). -/
theorem exec_withParams {i : Instr} {s : State} {p : Params}
    (h : flagWriterIntoVf i = false ∨ p.vfDestWinner = s.params.vfDestWinner) :
    exec i (s.withParams p) = mapNext (fun t => t.withParams p) (exec i s) := by
  cases i
  case ret => exact s.popToPc_withParams p
  case call nnn => exact execCall_withParams s p nnn
  case skipEq x kk | skipNe x kk => exact congrArg Host.Outcome.next (s.skipIf_withParams p _)
  case skipRegEq x y | skipRegNe x y => exact congrArg Host.Outcome.next (s.skipIf_withParams p _)
  case loadImm x kk | addImm x kk =>
    exact congrArg Host.Outcome.next (State.writeBack_withParams (.inl rfl))
  case copy x y | orReg x y | andReg x y | xorReg x y =>
    exact congrArg Host.Outcome.next (State.writeBack_withParams (.inl rfl))
  case addReg x y | subReg x y | subnReg x y | shiftRight x y | shiftLeft x y =>
    exact congrArg Host.Outcome.next (State.writeBack_withParams (.inr h))
  case draw x y n => exact withIndexRange_withParams (t := _) rfl
  case storeBcd x | storeRegisters x | loadRegisters x => exact withIndexRange_withParams (t := _) rfl
  case skipKey x | skipNotKey x =>
    simp only [exec, execSkipKey, execSkipNotKey, State.reg_withParams, State.input_withParams,
      State.skipIf_withParams, withKeyIndex_withParams]
  case waitKey x => exact congrArg Host.Outcome.next (s.takeKey_withParams p x _)
  case clearScreen | jump | loadIndex | jumpOffset | random | getDelay | setDelay | setSound | addIndex | fontChar =>
    rfl

/-- Settles O27: `exec_withParams` for an instruction that is no flag writer into VF. -/
theorem parametersMatterOnlyForVfAsDestination : Obligations.ParametersMatterOnlyForVfAsDestination :=
  fun _ _ _ h => exec_withParams (.inl h)

/-! ## What STRICT accepts, every mode accepts -/

/-- A program counter that STRICT accepts, BOUNDS accepts too (R223). -/
theorem pcFetchable_of_strict {pc : Word} (h : pcFetchable .strict pc = true) (c : PcCheck) :
    pcFetchable c pc = true := by
  cases c with
  | strict => exact h
  | bounds =>
    simp only [pcFetchable, Bool.and_eq_true] at h
    obtain ⟨_, _, hle⟩ := h
    exact hle

/-- A handler that STRICT selects, MUX selects too: STRICT only turns words away (R117, R132). -/
theorem dispatch_of_strict {iw : Word} {h : Handler} (hs : dispatch .strict iw = some h) (d : DecodeMode) :
    dispatch d iw = some h := by
  cases d with
  | strict => exact hs
  | mux =>
    simp only [dispatch, dispatchStrict] at hs ⊢
    cases hm : dispatchMux iw with
    | none => simp [hm] at hs
    | some h' =>
      rw [hm] at hs
      exact (Option.ite_none_right_eq_some.1 hs).2

/-- A word that decodes under STRICT decodes alike in every mode (R132). -/
theorem decodeWord_of_strict {iw : Word} {i : Instr} (hs : decodeWord .strict iw = some i) (d : DecodeMode) :
    decodeWord d iw = some i := by
  obtain ⟨h, hh, hi⟩ := Option.map_eq_some_iff.1 hs
  exact Option.map_eq_some_iff.2 ⟨h, dispatch_of_strict hh d, hi⟩

/-- Settles O26: the check of R223 and the dispatch only accept more under looser parameters, and with the same
VF_DEST_WINNER the accepted instruction means the same (`exec_withParams`). -/
theorem strictTickIsATickInEveryMode : Obligations.StrictTickIsATickInEveryMode := by
  intro s t d w c h
  obtain ⟨hpc, i, u, hi, hu, rfl⟩ := step_next.1 h
  have hfetch : (s.withParams ⟨d, w, c⟩).fetchInstr = some i := by
    simp only [State.fetchInstr_eq, State.params_withParams, State.fetchWord_withParams] at hi ⊢
    exact decodeWord_of_strict hi d
  have hexec : exec i (s.withParams ⟨d, w, c⟩).preAdvance = .next (u.withParams ⟨d, w, c⟩) := by
    rw [State.preAdvance_withParams] at hu ⊢
    rw [← State.withParams_withParams _ ⟨.strict, w, .strict⟩, exec_withParams, hu]
    · rfl
    · exact .inr rfl
  exact step_next.2 ⟨pcFetchable_of_strict hpc c, i, _, hfetch, hexec, (u.endTick_withParams _).symm⟩

end Sys2Proof.Machine
end

section
/-! SUPPORT. What a meaning can do to the state, said once as a relation (R34, R38 to R43), and what follows from it:
the writers of every unit, the registers an instruction keeps, and the invariant of the machine. -/

namespace Sys2Proof.Machine

/-! ## The effect of a meaning -/

/-- Where a handler other than call and return may leave PC: at PCn, one instruction before or after it, or at a
target no higher than jump-offset can compute (R224, R233). -/
def PcTarget (s : State) (w : Word) : Prop :=
  w = s.pc ∨ w = s.pc + 2 ∨ w = s.pc - 2 ∨ w.toNat ≤ 0x10FE

/-- `s` after a call of `nnn`: PCn is the entry at SP, SP is one higher and PC is the target (R228). -/
def State.called (s : State) (nnn : Addr12) (room : s.sp.val < 16) : State :=
  { s with
    pc := zextNnn nnn
    stk := s.stk.set s.sp.val s.pc room
    sp := ⟨s.sp.val + 1, Nat.succ_lt_succ room⟩ }

/-- `s` after a return: PC is the top entry and SP is one lower (R226). -/
def State.returned (s : State) (lt : s.sp.val - 1 < 16) : State :=
  { s with pc := s.stackEntry ⟨s.sp.val - 1, lt⟩, sp := ⟨s.sp.val - 1, by omega⟩ }

/-- `Effect s i t`: the change from `s` to `t` is one that `i` may make, one constructor per unit of the state. -/
inductive Effect (s : State) (i : Instr) : State → Prop
  /-- The registers, those the tables R34 and R38 do not give to `i` kept. -/
  | regs (v : Vector Byte 16) (kept : ∀ r : Reg, writesReg i r = false → v[r.val] = s.reg r) :
      Effect s i (s.setRegs v)
  /-- PC alone. -/
  | pc (w : Word) (target : PcTarget s w) : Effect s i (s.setPc w)
  /-- I (R39). -/
  | index (w : Word) (writer : (∃ nnn, i = .loadIndex nnn) ∨ (∃ x, i = .addIndex x) ∨ ∃ x, i = .fontChar x) :
      Effect s i (s.setIndex w)
  /-- Memory (R71), its canonical form kept. -/
  | mem (m : Memory) (writer : (∃ x, i = .storeBcd x) ∨ ∃ x, i = .storeRegisters x)
      (canonical : s.mem.wf → m.wf) : Effect s i (s.setMem m)
  /-- The screen, and the registers as under `regs` (R43, R202). -/
  | screen (fb : FrameBuffer) (v : Vector Byte 16) (writer : i = .clearScreen ∨ ∃ x y n, i = .draw x y n)
      (kept : ∀ r : Reg, writesReg i r = false → v[r.val] = s.reg r) : Effect s i ((s.setFb fb).setRegs v)
  /-- DT (R41). -/
  | delay (b : Byte) (writer : ∃ x, i = .setDelay x) : Effect s i (s.setDt b)
  /-- ST (R41). -/
  | sound (b : Byte) (writer : ∃ x, i = .setSound x) : Effect s i (s.setSt b)
  /-- The stack and PC (R228). -/
  | call (nnn : Addr12) (writer : i = .call nnn) (room : s.sp.val < 16) : Effect s i (s.called nnn room)
  /-- SP and PC (R226). -/
  | ret (writer : i = .ret) (lt : s.sp.val - 1 < 16) : Effect s i (s.returned lt)

/-! ## Every meaning has an effect of its instruction -/

/-- A meaning that always completes, and its effect. -/
theorem Effect.of_next {i : Instr} {s t u : State} (e : Effect s i u) (h : (.next u : Result) = .next t) :
    Effect s i t := Host.Outcome.next.inj h ▸ e

theorem Effect.setReg {i : Instr} {s : State} {x : Reg} (b : Byte) (h : ∀ r, writesReg i r = false → r ≠ x) :
    Effect s i (s.setReg x b) :=
  .regs _ fun r hr => (s.reg_setReg x r b).trans (if_neg (h r hr))

/-- The write-back stays inside the tables R34 and R38 where its destination does, and VF too if there is a flag. -/
theorem Effect.writeBack {i : Instr} {s : State} {x : Reg} {o : AluOut}
    (h : ∀ r, writesReg i r = false → r ≠ x ∧ (r ≠ VF ∨ o.flag = none)) : Effect s i (s.writeBack x o) := by
  obtain ⟨v, e⟩ := s.writeBack_eq x o
  have kept : ∀ r : Reg, writesReg i r = false → v[r.val] = s.reg r := by
    intro r hr
    obtain ⟨hx, hf⟩ := h r hr
    rw [← s.reg_writeBack_of_ne hx hf, e]
    rfl
  exact e ▸ .regs v kept

theorem Effect.skipIf {i : Instr} (s : State) (c : Bool) : Effect s i (s.skipIf c) := by
  rw [State.skipIf_eq]
  refine .pc _ ?_
  cases c
  · exact .inl rfl
  · exact .inr (.inl rfl)

theorem Effect.loadRegs (s : State) (x : Reg) (a : Nat) : Effect s (.loadRegisters x) (s.loadRegs x a) :=
  .regs _ fun r hr => (s.reg_loadRegs x r a).trans (if_neg (of_decide_eq_false hr))

theorem Effect.takeKey (s : State) (x : Reg) (k : Option Nat) : Effect s (.waitKey x) (s.takeKey x k) := by
  cases k with
  | some n => exact .setReg _ fun r hr => ne_of_beq_false hr
  | none => exact .pc _ (.inr (.inr (.inl rfl)))

/-- Bytes stored at I inside a range that fits keep the canonical form of memory (R76). -/
theorem wf_writeBytes_of_rangeFits {s : State} {bs : List Byte} {len : Nat} (hlen : bs.length = len)
    (hpos : len ≠ 0) (hfit : rangeFits s.index len = true) (hm : s.mem.wf) :
    (s.mem.writeBytes (s.effAddr 0) bs).wf := by
  refine Memory.wf_writeBytes hm ?_
  have := (rangeFits_iff.1 hfit).resolve_left hpos
  simpa [State.effAddr, hlen] using this

/-- jump-offset computes no target above 0x0FFF + 0xFF (R233). -/
theorem toNat_jumpOffset_le (nnn : Addr12) (b : Byte) : (zextNnn nnn + zextByte b).toNat ≤ 0x10FE := by
  have h1 : nnn.toNat < 4096 := nnn.isLt
  have h2 : b.toNat < 256 := b.isLt
  simp only [zextNnn, zextByte, BitVec.toNat_add, BitVec.toNat_setWidth]
  omega

theorem toNat_zextNnn_le (nnn : Addr12) : (zextNnn nnn).toNat ≤ 0xFFF := by
  have h : nnn.toNat < 4096 := nnn.isLt
  simp only [zextNnn, BitVec.toNat_setWidth]
  omega

/-- A meaning that completes has made a change that its instruction may make. -/
theorem exec_effect {i : Instr} {s t : State} (h : exec i s = .next t) : Effect s i t := by
  cases i
  case clearScreen => exact .of_next (.screen FrameBuffer.clear s.v (.inl rfl) fun _ _ => rfl) h
  case ret =>
    obtain ⟨-, hlt, rfl⟩ := State.popToPc_next.1 h
    exact .ret rfl hlt
  case jump nnn => exact .of_next (.pc _ (.inr (.inr (.inr ((toNat_zextNnn_le nnn).trans (by decide)))))) h
  case call nnn =>
    obtain ⟨hroom, rfl⟩ := execCall_next.1 h
    exact .call nnn rfl hroom
  case skipEq x kk | skipNe x kk => exact .of_next (.skipIf s _) h
  case skipRegEq x y | skipRegNe x y => exact .of_next (.skipIf s _) h
  case loadImm x kk | addImm x kk => exact .of_next (.writeBack fun r hr => ⟨ne_of_beq_false hr, .inr rfl⟩) h
  case copy x y | orReg x y | andReg x y | xorReg x y =>
    exact .of_next (.writeBack fun r hr => ⟨ne_of_beq_false hr, .inr rfl⟩) h
  case addReg x y | subReg x y | subnReg x y | shiftRight x y | shiftLeft x y =>
    refine .of_next (.writeBack fun r hr => ?_) h
    obtain ⟨hx, hf⟩ := Bool.or_eq_false_iff.1 hr
    exact ⟨ne_of_beq_false hx, .inl (ne_of_beq_false hf)⟩
  case loadIndex nnn => exact .of_next (.index _ (.inl ⟨nnn, rfl⟩)) h
  case addIndex x => exact .of_next (.index _ (.inr (.inl ⟨x, rfl⟩))) h
  case fontChar x => exact .of_next (.index _ (.inr (.inr ⟨x, rfl⟩))) h
  case jumpOffset nnn => exact .of_next (.pc _ (.inr (.inr (.inr (toNat_jumpOffset_le nnn (s.reg 0)))))) h
  case random x kk | getDelay x => exact .of_next (.setReg _ fun r hr => ne_of_beq_false hr) h
  case draw x y n =>
    obtain ⟨_, h⟩ := withIndexRange_next.1 h
    refine .of_next (.screen _ _ (.inr ⟨x, y, n, rfl⟩) fun r hr => ?_) h
    exact (s.reg_setReg VF r _).trans (if_neg (ne_of_beq_false hr))
  case skipKey x | skipNotKey x =>
    simp only [exec, execSkipKey, execSkipNotKey] at h
    exact .of_next (.skipIf s _) (withKeyIndex_next.1 h).2
  case waitKey x => exact .of_next (.takeKey s x _) h
  case setDelay x => exact .of_next (.delay _ ⟨x, rfl⟩) h
  case setSound x => exact .of_next (.sound _ ⟨x, rfl⟩) h
  case storeBcd x =>
    obtain ⟨hfit, h⟩ := withIndexRange_next.1 h
    exact .of_next (.mem _ (.inl ⟨x, rfl⟩) (wf_writeBytes_of_rangeFits (len := 3) rfl (by decide) hfit)) h
  case storeRegisters x =>
    obtain ⟨hfit, h⟩ := withIndexRange_next.1 h
    have hlen : (s.regsUpTo x).length = x.val + 1 := by
      simp only [State.regsUpTo, List.length_take, Vector.length_toList]
      omega
    exact .of_next (.mem _ (.inr ⟨x, rfl⟩) (wf_writeBytes_of_rangeFits hlen (Nat.succ_ne_zero _) hfit)) h
  case loadRegisters x => exact .of_next (.loadRegs s x _) (withIndexRange_next.1 h).2

/-! ## The writers of every unit (R34, R38 to R43, R71) -/

section Writers

variable {i : Instr} {s t : State}

theorem Effect.memKept (e : Effect s i t) (h1 : ∀ x, i ≠ .storeBcd x) (h2 : ∀ x, i ≠ .storeRegisters x) :
    MemKept s t := by
  cases e with
  | mem m writer =>
    obtain ⟨x, hx⟩ | ⟨x, hx⟩ := writer
    · exact absurd hx (h1 x)
    · exact absurd hx (h2 x)
  | regs | pc | index | screen | delay | sound | call | ret => exact fun _ => rfl

theorem Effect.screenKept (e : Effect s i t) (h1 : i ≠ .clearScreen) (h2 : ∀ x y n, i ≠ .draw x y n) :
    ScreenKept s t := by
  cases e with
  | screen fb v writer =>
    obtain hc | ⟨x, y, n, hd⟩ := writer
    · exact absurd hc h1
    · exact absurd hd (h2 x y n)
  | regs | pc | index | mem | delay | sound | call | ret => exact fun _ _ => rfl

theorem Effect.stackKept (e : Effect s i t) (h1 : i ≠ .ret) (h2 : ∀ nnn, i ≠ .call nnn) : StackKept s t := by
  cases e with
  | call nnn writer => exact absurd writer (h2 nnn)
  | ret writer => exact absurd writer h1
  | regs | pc | index | mem | screen | delay | sound => exact ⟨rfl, fun _ => rfl⟩

theorem Effect.index_eq (e : Effect s i t) (h1 : ∀ nnn, i ≠ .loadIndex nnn) (h2 : ∀ x, i ≠ .addIndex x)
    (h3 : ∀ x, i ≠ .fontChar x) : t.index = s.index := by
  cases e with
  | index w writer =>
    obtain ⟨nnn, hl⟩ | ⟨x, ha⟩ | ⟨x, hf⟩ := writer
    · exact absurd hl (h1 nnn)
    · exact absurd ha (h2 x)
    · exact absurd hf (h3 x)
  | regs | pc | mem | screen | delay | sound | call | ret => rfl

theorem Effect.dt_eq (e : Effect s i t) (h : ∀ x, i ≠ .setDelay x) : t.dt = s.dt := by
  cases e with
  | delay b writer =>
    obtain ⟨x, hx⟩ := writer
    exact absurd hx (h x)
  | regs | pc | index | mem | screen | sound | call | ret => rfl

theorem Effect.st_eq (e : Effect s i t) (h : ∀ x, i ≠ .setSound x) : t.st = s.st := by
  cases e with
  | sound b writer =>
    obtain ⟨x, hx⟩ := writer
    exact absurd hx (h x)
  | regs | pc | index | mem | screen | delay | call | ret => rfl

theorem Effect.modelKept (e : Effect s i t) : ModelKept s t := by
  cases e <;> exact ⟨rfl, rfl, rfl⟩

theorem Effect.reg_eq (e : Effect s i t) {r : Reg} (h : writesReg i r = false) : t.reg r = s.reg r := by
  cases e with
  | regs v kept => exact kept r h
  | screen fb v _ kept => exact kept r h
  | pc | index | mem | delay | sound | call | ret => rfl

end Writers

/-- Settles O21: the effect of the meaning (`exec_effect`), read unit by unit. -/
theorem eachUnitHasItsWriters : Obligations.EachUnitHasItsWriters := by
  intro i s t h
  have e := exec_effect h
  exact ⟨e.memKept, e.screenKept, e.stackKept, e.index_eq, e.dt_eq, e.st_eq, e.modelKept⟩

/-- Settles O22: the effect of the meaning (`exec_effect`), read at one register. -/
theorem registersOutsideTheTableAreKept : Obligations.RegistersOutsideTheTableAreKept :=
  fun _ _ _ h _ hr => (exec_effect h).reg_eq hr

/-! ## The invariant -/

/-- The invariant as a handler meets it: PC is PCn, the address after an instruction that passed the check of R223. -/
structure State.InvAtPcn (s : State) : Prop extends s.Inv where
  two_le_pc : 2 ≤ s.pc.toNat
  pc_le : s.pc.toNat ≤ 0x1000
  pcAligned : s.params.pcCheck = .strict → s.pc.toNat % 2 = 0 ∧ 0x202 ≤ s.pc.toNat

/-- The check of R223 in numbers: what every PC_CHECK asks, and what STRICT asks beside it. -/
theorem State.pc_of_canFetch {s : State} (h : s.canFetch = true) :
    s.pc.toNat ≤ 0xFFE ∧ (s.params.pcCheck = .strict → s.pc.toNat % 2 = 0 ∧ 0x200 ≤ s.pc.toNat) := by
  unfold State.canFetch at h
  cases hc : s.params.pcCheck with
  | strict =>
    simp only [hc, pcFetchable, Bool.and_eq_true, beq_iff_eq, decide_eq_true_eq] at h
    obtain ⟨heven, hge, hle⟩ := h
    exact ⟨hle, fun _ => ⟨heven, hge⟩⟩
  | bounds =>
    simp only [hc, pcFetchable, decide_eq_true_eq] at h
    exact ⟨h, nofun⟩

/-- The pre-advance after a check that passed brings the invariant to PCn (R221, R223). -/
theorem State.Inv.preAdvance {s : State} (h : s.Inv) (hc : s.canFetch = true) : s.preAdvance.InvAtPcn := by
  obtain ⟨hle, hstrict⟩ := State.pc_of_canFetch hc
  have hpc : s.preAdvance.pc.toNat = s.pc.toNat + 2 := by
    rw [State.preAdvance_pc]
    bv_omega
  exact {
    memCanonical := h.memCanonical
    pcBound := by omega
    stackBound := h.stackBound
    returnsAligned := h.returnsAligned
    two_le_pc := by omega
    pc_le := by omega
    pcAligned := fun hp => by have := hstrict hp; omega }

/-- PC stays under the bound of the invariant wherever a handler other than call and return leaves it. -/
theorem PcTarget.toNat_le {s : State} {w : Word} (h : PcTarget s w) (h2 : 2 ≤ s.pc.toNat)
    (hle : s.pc.toNat ≤ 0x1000) : w.toNat ≤ 0x10FE := by
  obtain rfl | rfl | rfl | hw := h
  · omega
  · bv_omega
  · bv_omega
  · exact hw

theorem State.stackEntry_called (s : State) (nnn : Addr12) (room : s.sp.val < 16) (j : Fin 16) :
    (s.called nnn room).stackEntry j = if j.val = s.sp.val then s.pc else s.stackEntry j := by
  simp only [State.stackEntry, State.called, Vector.getElem_set, eq_comm]

/-- call pushes PCn, which is even and at least 0x202 where STRICT let the instruction be fetched (R223, R228). -/
theorem State.InvAtPcn.called {s : State} (h : s.InvAtPcn) (nnn : Addr12) (room : s.sp.val < 16) :
    (s.called nnn room).Inv where
  memCanonical := h.memCanonical
  pcBound := (toNat_zextNnn_le nnn).trans (by decide)
  stackBound j := by
    rw [State.stackEntry_called]
    split
    · exact h.pc_le
    · exact h.stackBound j
  returnsAligned hp j hj := by
    rw [State.stackEntry_called]
    split
    · exact h.pcAligned hp
    · next hne => exact h.returnsAligned hp j (Nat.lt_of_le_of_ne (Nat.le_of_lt_succ hj) hne)

/-- return gives PC a stack entry and leaves fewer entries occupied (R226). -/
theorem State.Inv.returned {s : State} (h : s.Inv) (lt : s.sp.val - 1 < 16) : (s.returned lt).Inv where
  memCanonical := h.memCanonical
  pcBound := (h.stackBound _).trans (by decide)
  stackBound := h.stackBound
  returnsAligned hp j hj := h.returnsAligned hp j (hj.trans_le (Nat.sub_le ..))

/-- Whatever a handler may do at PCn, the invariant holds after it. -/
theorem Effect.inv {i : Instr} {s t : State} (e : Effect s i t) (h : s.InvAtPcn) : t.Inv := by
  cases e with
  | pc w target => exact { h.toInv with pcBound := target.toNat_le h.two_le_pc h.pc_le }
  | mem m _ canonical => exact { h.toInv with memCanonical := canonical h.memCanonical }
  | call nnn _ room => exact h.called nnn room
  | ret _ lt => exact h.toInv.returned lt
  | regs | index | screen | delay | sound => exact { h.toInv with }

/-- The end of a tick touches nothing the invariant speaks of. -/
theorem State.Inv.endTick {s : State} (h : s.Inv) : s.endTick.Inv := { h with }

/-- Settles O23: the check and the pre-advance bring the invariant to PCn, and there every effect of a meaning keeps
it. -/
theorem tickKeepsTheInvariant : Obligations.TickKeepsTheInvariant := by
  intro s t hs h
  obtain ⟨hfetch, i, u, -, hexec, rfl⟩ := step_next.1 h
  exact ((exec_effect hexec).inv (hs.preAdvance hfetch)).endTick

/-- Settles O25: reset's memory is canonical, its PC is 0x200, its stack entries are 0 and none is occupied. -/
theorem resetMeetsTheInvariant : Obligations.ResetMeetsTheInvariant where
  memCanonical := Memory.wf_reset
  pcBound := by decide
  stackBound := by decide
  returnsAligned _ j hj := absurd hj (Nat.not_lt_zero _)

end Sys2Proof.Machine
end

section
/-! SUPPORT. The tick inputs as a frame: the meanings that do not look at KEY and RND, and the tick as a function of
the core's state, the parameters and its own inputs (R42, R220, R281). -/

namespace Sys2Proof.Machine

/-! ## Operations that do not look at the tick inputs -/

section WithInputs

variable (s : State) (inputs : List TickInput) (n : Nat)

theorem State.skipIf_withInputs (c : Bool) :
    (s.withInputs inputs n).skipIf c = (s.skipIf c).withInputs inputs n := by
  cases c <;> rfl

theorem State.popToPc_withInputs :
    (s.withInputs inputs n).popToPc = mapNext (fun t => t.withInputs inputs n) s.popToPc := by
  cases h : s.popToPc with
  | next t =>
    obtain ⟨hpos, hlt, rfl⟩ := State.popToPc_next.1 h
    exact State.popToPc_next.2 ⟨hpos, hlt, rfl⟩
  | fault f => exact State.popToPc_fault.2 (State.popToPc_fault (s := s).1 h)
  | refused r => exact absurd h State.popToPc_ne_refused

theorem execCall_withInputs (nnn : Addr12) :
    execCall nnn (s.withInputs inputs n) = mapNext (fun t => t.withInputs inputs n) (execCall nnn s) := by
  cases h : execCall nnn s with
  | next t =>
    obtain ⟨hroom, rfl⟩ := execCall_next.1 h
    exact execCall_next.2 ⟨hroom, rfl⟩
  | fault f => exact execCall_fault.2 (execCall_fault (s := s).1 h)
  | refused r => exact absurd h (exec_ne_refused (.call nnn) s r)

end WithInputs

/-! ## The readers of KEY and RND -/

/-- Settles O20: no operation of an instruction that is not one of the four readers looks at the inputs. -/
theorem onlyInputReadersDependOnInputs : Obligations.OnlyInputReadersDependOnInputs := by
  intro i s inputs n h
  cases i
  case skipKey x | skipNotKey x | waitKey x => cases h
  case random x kk => cases h
  case ret => exact s.popToPc_withInputs inputs n
  case call nnn => exact execCall_withInputs s inputs n nnn
  case skipEq x kk | skipNe x kk => exact congrArg Host.Outcome.next (s.skipIf_withInputs inputs n _)
  case skipRegEq x y | skipRegNe x y => exact congrArg Host.Outcome.next (s.skipIf_withInputs inputs n _)
  case loadImm x kk | addImm x kk => exact congrArg Host.Outcome.next (s.writeBack_withInputs inputs n x _)
  case copy x y | orReg x y | andReg x y | xorReg x y =>
    exact congrArg Host.Outcome.next (s.writeBack_withInputs inputs n x _)
  case addReg x y | subReg x y | subnReg x y | shiftRight x y | shiftLeft x y =>
    exact congrArg Host.Outcome.next (s.writeBack_withInputs inputs n x _)
  case draw x y k => exact withIndexRange_withInputs (a := _) rfl
  case storeBcd x | storeRegisters x | loadRegisters x => exact withIndexRange_withInputs (a := _) rfl
  case clearScreen | jump | loadIndex | jumpOffset | getDelay | setDelay | setSound | addIndex | fontChar => rfl

/-! ## The tick as a function of its inputs -/

/-- A tick with the same KEY and RND is the same tick, whatever is lined up behind them and whatever its number. -/
theorem step_withInputs {s : State} {inputs : List TickInput} {n : Nat}
    (h : (s.withInputs inputs n).input = s.input) :
    step (s.withInputs inputs n) = mapNext (fun t => t.withInputs inputs.tail (n + 1)) (step s) := by
  have hexec (i : Instr) : exec i (s.withInputs inputs n).preAdvance =
      mapNext (fun t => t.withInputs inputs n) (exec i s.preAdvance) := exec_withInputs (s := s.preAdvance) h
  have hcan : (s.withInputs inputs n).canFetch = s.canFetch := rfl
  have hfetch : (s.withInputs inputs n).fetchInstr = s.fetchInstr := rfl
  unfold step
  rw [hcan, hfetch]
  by_cases hc : s.canFetch = true
  · rw [if_pos hc, if_pos hc]
    cases s.fetchInstr with
    | none => rfl
    | some i =>
      simp only [hexec]
      cases exec i s.preAdvance <;> rfl
  · rw [if_neg hc, if_neg hc]
    rfl

/-- `tickOf` is the tick of the same core state and parameters with this tick's inputs alone lined up. -/
theorem tickOf_eq (s : State) : tickOf s.params s.toMachineState s.input =
    (tick (s.withInputs [s.input] 0)).map fun r => (r.1.toMachineState, r.2) := rfl

/-- Settles O52: a tick does not look behind its own inputs (`step_withInputs`), and no meaning touches the
environment, which the end of the tick moves on by one. -/
theorem tickIsAFunctionOfStateAndInputs : Obligations.TickIsAFunctionOfStateAndInputs := by
  intro s
  refine ⟨?_, fun t h => ?_⟩
  · rw [tickOf_eq]
    have own : (s.withInputs [s.input] 0).input = s.input := rfl
    unfold tick
    rw [step_withInputs own]
    cases step s <;> rfl
  · obtain ⟨-, i, u, -, hexec, rfl⟩ := step_next.1 h
    obtain ⟨hp, hi, hn⟩ := (exec_effect hexec).modelKept
    exact ⟨hp, congrArg List.tail hi, congrArg (· + 1) hn⟩

end Sys2Proof.Machine
end

section
/-! SUPPORT. Memory as data and as fetched code (R13, R70, R72, R85): what a canonical memory lists, what a
store-registers leaves in memory, and the two statements of 20_memory.md about them. -/

namespace Sys2Proof.Machine

/-! ## What a canonical memory lists -/

/-- A listed cell is what its address reads as, addresses rising strictly. -/
theorem Memory.read_of_mem {m : Memory} (hm : m.Pairwise (fun c d => c.1 < d.1)) {c : Host.Cell} (hc : c ∈ m) :
    m.read c.1 = c.2 := by
  induction m with
  | nil => cases hc
  | cons d m ih =>
    obtain ⟨hlt, hm⟩ := List.pairwise_cons.1 hm
    rcases List.mem_cons.1 hc with rfl | hc
    · exact if_pos rfl
    · exact (if_neg (hlt c hc).ne).trans (ih hm hc)

/-- An address that does not read as unlisted is listed. -/
theorem Memory.mem_of_read_ne {m : Memory} {a : Nat} (h : m.read a ≠ Memory.background a) : (a, m.read a) ∈ m := by
  induction m with
  | nil => exact absurd rfl h
  | cons d m ih =>
    by_cases hd : d.1 = a
    · have hread : Memory.read (d :: m) a = d.2 := if_pos hd
      rw [hread, ← hd]
      exact List.mem_cons_self
    · have hread : Memory.read (d :: m) a = Memory.read m a := if_neg hd
      rw [hread] at h ⊢
      exact List.mem_cons_of_mem d (ih h)

/-- A canonical memory lists exactly the cells of the address space that read differently from unlisted. -/
theorem Memory.mem_iff_read {m : Memory} (hm : m.wf) {c : Host.Cell} :
    c ∈ m ↔ c.1 < 4096 ∧ c.2 ≠ Memory.background c.1 ∧ m.read c.1 = c.2 := by
  constructor
  · intro hc
    obtain ⟨hlt, hne⟩ := hm.2 c hc
    exact ⟨hlt, hne, Memory.read_of_mem hm.1 hc⟩
  · rintro ⟨-, hne, hread⟩
    rw [← hread] at hne
    have hin := Memory.mem_of_read_ne hne
    rwa [hread] at hin

/-- Settles O47: the reads fix the listed cells (`Memory.mem_iff_read`), and their rising addresses fix the order. -/
theorem equalReadsAreEqualMemories : Obligations.EqualReadsAreEqualMemories := by
  intro m m' hm hm' hread
  have : Std.Irrefl (fun c d : Host.Cell => c.1 < d.1) := ⟨fun c => lt_irrefl c.1⟩
  have : Std.Antisymm (fun c d : Host.Cell => c.1 < d.1) := ⟨fun _ _ h h' => absurd h h'.asymm⟩
  refine hm.1.eq_of_mem_iff hm'.1 fun c => ?_
  rw [Memory.mem_iff_read hm, Memory.mem_iff_read hm']
  exact and_congr_right fun hlt => by rw [hread c.1 hlt]

/-! ## What a store-registers leaves in memory -/

theorem State.length_regsUpTo (s : State) (x : Reg) : (s.regsUpTo x).length = x.val + 1 := by
  simp only [State.regsUpTo, List.length_take, Vector.length_toList]
  omega

theorem State.getD_regsUpTo (s : State) {x r : Reg} (h : r ≤ x) : (s.regsUpTo x).getD r.val 0 = s.reg r := by
  have hlt : r.val < x.val + 1 := Nat.lt_succ_of_le h
  simp [State.regsUpTo, State.reg, List.getD, hlt]

/-- A store-registers that goes on: the range fits, and memory alone changed (R314). -/
theorem exec_storeRegisters_next {s t : State} {x : Reg} : exec (.storeRegisters x) s = .next t ↔
    rangeFits s.index (x.val + 1) = true ∧ t = s.setMem (s.mem.writeBytes (s.effAddr 0) (s.regsUpTo x)) := by
  rw [show exec (.storeRegisters x) s = withIndexRange s (x.val + 1) _ from rfl, withIndexRange_next,
    Host.Outcome.next.injEq, eq_comm (b := t)]

/-- The byte at I + r after a store-registers up to x is V[r] (R314). -/
theorem State.byteAt_of_storeRegisters {s t : State} {x r : Reg} (h : exec (.storeRegisters x) s = .next t)
    (hr : r ≤ x) : t.byteAt (s.effAddr r.val) = s.reg r := by
  obtain ⟨-, rfl⟩ := exec_storeRegisters_next.1 h
  have hin : s.index.toNat ≤ s.index.toNat + r.val ∧ s.index.toNat + r.val < s.index.toNat + (x.val + 1) := by
    have : r.val ≤ x.val := hr
    omega
  rw [State.byteAt_setMem, Memory.read_writeBytes, s.length_regsUpTo]
  simp only [State.effAddr, Nat.add_zero, if_pos hin, Nat.add_sub_cancel_left, s.getD_regsUpTo hr]

/-- Settles O46: the bytes at I and I + 1 after the store are V0 and V1, and PC, which is I, is kept. -/
theorem storeReachesTheNextFetch : Obligations.StoreReachesTheNextFetch := by
  intro s t x hx hpc h
  have hkept : t.pc = s.index := by
    obtain ⟨-, rfl⟩ := exec_storeRegisters_next.1 h
    exact hpc.symm
  have h0 : t.byteAt s.index.toNat = s.reg 0 := State.byteAt_of_storeRegisters h (Fin.zero_le x)
  have h1 : t.byteAt (s.index.toNat + 1) = s.reg 1 := State.byteAt_of_storeRegisters (r := 1) h hx
  rw [State.fetchWord, hkept, h0, h1]

end Sys2Proof.Machine
end

section
/-! SUPPORT. The encoding (30_encoding.md): the fields of a word and the formats as views of one word (R101 to R104),
the opcode map row by row (R130), the words no table holds (R131, R132), and the statements about them. -/

namespace Sys2Proof

/-! ## The fields of a word (R101, R102) -/

/-- Settles O3: each field is the division by its lowest place value and the remainder at its width. -/
theorem fieldsAreSlicesOfTheWord : Obligations.FieldsAreSlicesOfTheWord := by
  intro iw
  have hlt := iw.isLt
  simp only [decodeFields, BitVec.extractLsb'_toNat, Nat.shiftRight_eq_div_pow, true_and]
  omega

/-- The low byte is the nibbles `y` and `n` side by side (R102). -/
theorem decodeFields_kk (iw : Word) : (decodeFields iw).kk = (decodeFields iw).y ++ (decodeFields iw).n :=
  (BitVec.extractLsb'_append_extractLsb'_eq_extractLsb' (start₁ := 0) (len₁ := 4) rfl).symm

/-- `y` and `n` are the two nibbles of the low byte (R102). -/
theorem decodeFields_y (iw : Word) : (decodeFields iw).y = (decodeFields iw).kk.extractLsb' 4 4 := by
  rw [decodeFields_kk, BitVec.extractLsb'_append_eq_left]

theorem decodeFields_n (iw : Word) : (decodeFields iw).n = (decodeFields iw).kk.extractLsb' 0 4 := by
  rw [decodeFields_kk, BitVec.extractLsb'_append_eq_right]

/-! ## Registers and formats (R104, R105) -/

@[simp] theorem regOf_regField (r : Reg) : regOf (regField r) = r := by
  revert r
  decide

@[simp] theorem regField_regOf (f : Nibble) : regField (regOf f) = f :=
  (BitVec.ofNat_toNat 4 f).trans (BitVec.setWidth_eq f)

@[simp] theorem op_formNNN (op : Nibble) (nnn : Addr12) : (decodeFields (formNNN op nnn)).op = op :=
  BitVec.extractLsb'_append_eq_left

@[simp] theorem nnn_formNNN (op : Nibble) (nnn : Addr12) : (decodeFields (formNNN op nnn)).nnn = nnn :=
  BitVec.extractLsb'_append_eq_right

@[simp] theorem op_formXKK (op : Nibble) (x : Reg) (kk : Byte) : (decodeFields (formXKK op x kk)).op = op :=
  (BitVec.extractLsb'_append_eq_of_le (by decide)).trans BitVec.extractLsb'_append_eq_left

@[simp] theorem x_formXKK (op : Nibble) (x : Reg) (kk : Byte) : (decodeFields (formXKK op x kk)).x = regField x :=
  (BitVec.extractLsb'_append_eq_of_le (by decide)).trans BitVec.extractLsb'_append_eq_right

@[simp] theorem kk_formXKK (op : Nibble) (x : Reg) (kk : Byte) : (decodeFields (formXKK op x kk)).kk = kk :=
  BitVec.extractLsb'_append_eq_right

@[simp] theorem op_formXYN (op : Nibble) (x y : Reg) (n : Nibble) : (decodeFields (formXYN op x y n)).op = op :=
  op_formXKK op x _

@[simp] theorem x_formXYN (op : Nibble) (x y : Reg) (n : Nibble) :
    (decodeFields (formXYN op x y n)).x = regField x :=
  x_formXKK op x _

@[simp] theorem y_formXYN (op : Nibble) (x y : Reg) (n : Nibble) :
    (decodeFields (formXYN op x y n)).y = regField y :=
  (BitVec.extractLsb'_append_eq_of_add_le (by decide)).trans BitVec.extractLsb'_append_eq_left

@[simp] theorem n_formXYN (op : Nibble) (x y : Reg) (n : Nibble) : (decodeFields (formXYN op x y n)).n = n :=
  (BitVec.extractLsb'_append_eq_of_add_le (by decide)).trans BitVec.extractLsb'_append_eq_right

/-- A word is of format NNN with its own fields. -/
theorem formNNN_decodeFields (iw : Word) : formNNN (decodeFields iw).op (decodeFields iw).nnn = iw :=
  (BitVec.extractLsb'_append_extractLsb'_eq_extractLsb' rfl).trans BitVec.extractLsb'_eq_self

/-- A word is of format XKK with its own fields. -/
theorem formXKK_decodeFields (iw : Word) :
    formXKK (decodeFields iw).op (regOf (decodeFields iw).x) (decodeFields iw).kk = iw := by
  have hi : (decodeFields iw).op ++ (decodeFields iw).x = iw.extractLsb' 8 8 :=
    BitVec.extractLsb'_append_extractLsb'_eq_extractLsb' rfl
  rw [formXKK, regField_regOf, hi]
  exact BitVec.extractLsb'_append_extractLsb'

/-- A word is of format XYN with its own fields. -/
theorem formXYN_decodeFields (iw : Word) : formXYN (decodeFields iw).op (regOf (decodeFields iw).x)
    (regOf (decodeFields iw).y) (decodeFields iw).n = iw := by
  rw [formXYN, regField_regOf (decodeFields iw).y, ← decodeFields_kk]
  exact formXKK_decodeFields iw

/-- The word of two bytes split from a word (R72). -/
theorem wordOfBytes_bytesOfWord (iw : Word) : wordOfBytes (iw.extractLsb' 8 8) (iw.extractLsb' 0 8) = iw :=
  BitVec.extractLsb'_append_extractLsb'

/-! ## The tests of a row on the fields (R116, R117, R130) -/

/-- Two words agree under the mask of the top nibble exactly in `op`. -/
theorem and_top_eq_iff {iw jw : Word} :
    iw &&& 0xF000 = jw &&& 0xF000 ↔ (decodeFields iw).op = (decodeFields jw).op := by
  have masked (w : Word) : w &&& 0xF000 = formNNN (decodeFields w).op 0 := by
    conv_lhs => rw [← formNNN_decodeFields w, and_top_formNNN]
    rfl
  rw [masked, masked]
  exact ⟨fun h => by simpa using congrArg (fun w => (decodeFields w).op) h, fun h => by rw [h]⟩

/-- Two words agree under the mask of the top and the lowest nibble exactly in `op` and `n`. -/
theorem and_ends_eq_iff {iw jw : Word} : iw &&& 0xF00F = jw &&& 0xF00F ↔
    (decodeFields iw).op = (decodeFields jw).op ∧ (decodeFields iw).n = (decodeFields jw).n := by
  have masked (w : Word) : w &&& 0xF00F = formXYN (decodeFields w).op 0 0 (decodeFields w).n := by
    conv_lhs => rw [← formXYN_decodeFields w, and_ends_formXYN]
  rw [masked, masked]
  exact ⟨fun h => ⟨by simpa using congrArg (fun w => (decodeFields w).op) h,
    by simpa using congrArg (fun w => (decodeFields w).n) h⟩, fun ⟨hop, hn⟩ => by rw [hop, hn]⟩

/-- Two words agree under the mask of all but `x` exactly in `op` and `kk`. -/
theorem and_outer_eq_iff {iw jw : Word} : iw &&& 0xF0FF = jw &&& 0xF0FF ↔
    (decodeFields iw).op = (decodeFields jw).op ∧ (decodeFields iw).kk = (decodeFields jw).kk := by
  have masked (w : Word) : w &&& 0xF0FF = formXKK (decodeFields w).op 0 (decodeFields w).kk := by
    conv_lhs => rw [← formXKK_decodeFields w, and_outer_formXKK]
    rfl
  rw [masked, masked]
  exact ⟨fun h => ⟨by simpa using congrArg (fun w => (decodeFields w).op) h,
    by simpa using congrArg (fun w => (decodeFields w).kk) h⟩, fun ⟨hop, hkk⟩ => by rw [hop, hkk]⟩

/-- Two words agree under the mask of every bit exactly when they are one. -/
theorem and_all_eq_iff {iw jw : Word} : iw &&& 0xFFFF = jw &&& 0xFFFF ↔ iw = jw := by
  rw [show (0xFFFF : Word) = BitVec.allOnes 16 from rfl, BitVec.and_allOnes, BitVec.and_allOnes]

/-- A word selects a MUX row exactly when it agrees with the row's match under the row's mask. -/
theorem selectsRow_mux_iff {h : Handler} {iw : Word} : selectsRow .mux h iw = true ↔
    iw &&& (opcodeRow h).muxMask = (opcodeRow h).muxMatch &&& (opcodeRow h).muxMask := by
  have hm : (opcodeRow h).muxMatch &&& (opcodeRow h).muxMask = (opcodeRow h).muxMatch := by cases h <;> rfl
  rw [hm]
  exact beq_iff_eq

/-- A word selects a STRICT row exactly when it agrees with the row's match under the row's mask. -/
theorem selectsRow_strict_iff {h : Handler} {iw : Word} : selectsRow .strict h iw = true ↔
    iw &&& (opcodeRow h).strictMask = (opcodeRow h).strictMatch &&& (opcodeRow h).strictMask := by
  have hm : (opcodeRow h).strictMatch &&& (opcodeRow h).strictMask = (opcodeRow h).strictMatch := by
    cases h <;> rfl
  rw [hm]
  exact beq_iff_eq

/-! ## The mux and the opcode map (R110 to R116, R130) -/

/-- A terminal slot of the primary table is the row that tests its top nibble alone (R111). -/
theorem muxRow_of_primary {op : Nibble} {h : Handler} (hp : primary op = .handler h) :
    (opcodeRow h).muxMask = 0xF000 ∧ op = (decodeFields (opcodeRow h).muxMatch).op := by
  cases h <;> revert op <;> decide

/-- The routes of the primary table (R111). -/
theorem primary_eq_sec0 : ∀ {op : Nibble}, primary op = .sec0 ↔ op = 0x0 := by decide

theorem primary_eq_sec8 : ∀ {op : Nibble}, primary op = .sec8 ↔ op = 0x8 := by decide

theorem primary_eq_secE : ∀ {op : Nibble}, primary op = .secE ↔ op = 0xE := by decide

theorem primary_eq_secF : ∀ {op : Nibble}, primary op = .secF ↔ op = 0xF := by decide

/-- A slot of SEC0 is the row that tests the top nibble 0 and the slot's index (R112). -/
theorem muxRow_of_sec0 : ∀ n, ∀ h ∈ sec0 n, (opcodeRow h).muxMask = 0xF00F ∧
    0x0 = (decodeFields (opcodeRow h).muxMatch).op ∧ n = (decodeFields (opcodeRow h).muxMatch).n := by decide

/-- A slot of SEC8 is the row that tests the top nibble 8 and the slot's index (R113). -/
theorem muxRow_of_sec8 : ∀ n, ∀ h ∈ sec8 n, (opcodeRow h).muxMask = 0xF00F ∧
    0x8 = (decodeFields (opcodeRow h).muxMatch).op ∧ n = (decodeFields (opcodeRow h).muxMatch).n := by decide

/-- A slot of SECE is the row that tests the top nibble E and the slot's index (R114). -/
theorem muxRow_of_secE : ∀ n, ∀ h ∈ secE n, (opcodeRow h).muxMask = 0xF00F ∧
    0xE = (decodeFields (opcodeRow h).muxMatch).op ∧ n = (decodeFields (opcodeRow h).muxMatch).n := by decide

/-- A slot of SECF is the row that tests the top nibble F and the slot's index (R115). -/
theorem muxRow_of_secF : ∀ kk, ∀ h ∈ secF kk, (opcodeRow h).muxMask = 0xF0FF ∧
    0xF = (decodeFields (opcodeRow h).muxMatch).op ∧ kk = (decodeFields (opcodeRow h).muxMatch).kk := by decide

/-- A slot of a table that routes by `op` and `n` selects its row. -/
theorem selectsRow_of_endsRow {iw : Word} {h : Handler} {op : Nibble} (hop : (decodeFields iw).op = op)
    (hrow : (opcodeRow h).muxMask = 0xF00F ∧ op = (decodeFields (opcodeRow h).muxMatch).op ∧
      (decodeFields iw).n = (decodeFields (opcodeRow h).muxMatch).n) : selectsRow .mux h iw = true := by
  obtain ⟨hmask, hop', hn⟩ := hrow
  rw [selectsRow_mux_iff, hmask]
  exact and_ends_eq_iff.2 ⟨hop.trans hop', hn⟩

/-- The row of the handler the mux selects is a row the word selects: the slot it comes from tests the row's bits. -/
theorem selectsRow_of_dispatchMux {iw : Word} {h : Handler} (hd : dispatchMux iw = some h) :
    selectsRow .mux h iw = true := by
  unfold dispatchMux at hd
  split at hd
  next h' hp =>
    cases hd
    obtain ⟨hmask, hop⟩ := muxRow_of_primary hp
    rw [selectsRow_mux_iff, hmask]
    exact and_top_eq_iff.2 hop
  next hp => exact selectsRow_of_endsRow (primary_eq_sec0.1 hp) (muxRow_of_sec0 _ h hd)
  next hp => exact selectsRow_of_endsRow (primary_eq_sec8.1 hp) (muxRow_of_sec8 _ h hd)
  next hp => exact selectsRow_of_endsRow (primary_eq_secE.1 hp) (muxRow_of_secE _ h hd)
  next hp =>
    obtain ⟨hmask, hop, hkk⟩ := muxRow_of_secF _ h hd
    rw [selectsRow_mux_iff, hmask]
    exact and_outer_eq_iff.2 ⟨(primary_eq_secF.1 hp).trans hop, hkk⟩

/-- The mux selects the handler of a row the word selects: it looks at no bit the row does not test. -/
theorem dispatchMux_of_selectsRow {iw : Word} {h : Handler} (hs : selectsRow .mux h iw = true) :
    dispatchMux iw = some h := by
  rw [selectsRow_mux_iff] at hs
  cases h
  case jump | call | skipEq | skipNe | skipRegEq | loadImm | addImm | skipRegNe | loadIndex | jumpOffset | random
      | draw =>
    rw [dispatchMux, and_top_eq_iff.1 hs]
    rfl
  case clearScreen | ret | copy | orReg | andReg | xorReg | addReg | subReg | shiftRight | subnReg | shiftLeft
      | skipKey | skipNotKey =>
    obtain ⟨hop, hn⟩ := and_ends_eq_iff.1 hs
    rw [dispatchMux, hop, hn]
    rfl
  case getDelay | waitKey | setDelay | setSound | addIndex | fontChar | storeBcd | storeRegisters | loadRegisters =>
    obtain ⟨hop, hkk⟩ := and_outer_eq_iff.1 hs
    rw [dispatchMux, hop, hkk]
    rfl

theorem dispatchMux_eq_some_iff {iw : Word} {h : Handler} :
    dispatchMux iw = some h ↔ selectsRow .mux h iw = true :=
  ⟨selectsRow_of_dispatchMux, dispatchMux_of_selectsRow⟩

/-! ## STRICT (R117) -/

/-- STRICT asks for the published bits beside the mux. -/
theorem dispatchStrict_eq_some_iff {iw : Word} {h : Handler} :
    dispatchStrict iw = some h ↔ dispatchMux iw = some h ∧ publishedBits iw = true := by
  unfold dispatchStrict
  cases dispatchMux iw <;> simp [and_comm]

theorem dispatchStrict_eq_none_iff {iw : Word} :
    dispatchStrict iw = none ↔ dispatchMux iw = none ∨ publishedBits iw = false := by
  unfold dispatchStrict
  cases dispatchMux iw <;> simp

theorem publishedBits_of_op_0 {iw : Word} (hop : (decodeFields iw).op = 0x0) :
    publishedBits iw = true ↔ iw = 0x00E0 ∨ iw = 0x00EE := by
  simp [publishedBits, hop]

theorem publishedBits_of_op_5_9 {iw : Word} (hop : (decodeFields iw).op = 0x5 ∨ (decodeFields iw).op = 0x9) :
    publishedBits iw = true ↔ (decodeFields iw).n = 0x0 := by
  rcases hop with hop | hop <;> simp [publishedBits, hop]

theorem publishedBits_of_op_E {iw : Word} (hop : (decodeFields iw).op = 0xE) :
    publishedBits iw = true ↔ (decodeFields iw).kk = 0x9E ∨ (decodeFields iw).kk = 0xA1 := by
  simp [publishedBits, hop]

/-- Under any other top nibble the mux has tested every fixed bit already. -/
theorem publishedBits_of_op_other {iw : Word} (hop : (decodeFields iw).op ∉ [0x0, 0x5, 0x9, 0xE]) :
    publishedBits iw = true := by
  have hne (k : Nibble) (hk : k ∈ ([0x0, 0x5, 0x9, 0xE] : List Nibble)) : (decodeFields iw).op.toNat ≠ k.toNat :=
    fun h => hop (BitVec.eq_of_toNat_eq h ▸ hk)
  simp only [publishedBits]
  split
  next h => exact absurd h (hne 0x0 (by decide))
  next h => exact absurd h (hne 0x5 (by decide))
  next h => exact absurd h (hne 0x9 (by decide))
  next h => exact absurd h (hne 0xE (by decide))
  next => rfl

/-- The published bits are missing exactly in the words that R131 lists for STRICT alone. -/
theorem publishedBits_eq_false_iff {iw : Word} :
    publishedBits iw = false ↔ Machine.illegalUnderStrictAlso iw (decodeFields iw) := by
  rw [← Bool.not_eq_true]
  by_cases h0 : (decodeFields iw).op = 0x0#4
  · simp [Machine.illegalUnderStrictAlso, publishedBits_of_op_0 h0, h0]
  by_cases h59 : (decodeFields iw).op = 0x5#4 ∨ (decodeFields iw).op = 0x9#4
  · rw [publishedBits_of_op_5_9 h59]
    rcases h59 with hop | hop <;> simp [Machine.illegalUnderStrictAlso, hop]
  by_cases hE : (decodeFields iw).op = 0xE#4
  · simp [Machine.illegalUnderStrictAlso, publishedBits_of_op_E hE, hE]
  · obtain ⟨h5, h9⟩ := not_or.1 h59
    have hop : (decodeFields iw).op ∉ [0x0, 0x5, 0x9, 0xE] := by simp [h0, h5, h9, hE]
    simp [Machine.illegalUnderStrictAlso, publishedBits_of_op_other hop, h0, h5, h9, hE]

/-- A word has the top nibble of a row it selects: every row's mask holds the whole of `op`. -/
theorem op_of_selectsRow_mux {iw : Word} {h : Handler} (hs : selectsRow .mux h iw = true) :
    (decodeFields iw).op = (decodeFields (opcodeRow h).muxMatch).op := by
  have hmask : (opcodeRow h).muxMask &&& 0xF000 = 0xF000 := by cases h <;> rfl
  have hand := congrArg (· &&& 0xF000) (selectsRow_mux_iff.1 hs)
  simp only [BitVec.and_assoc, hmask] at hand
  exact and_top_eq_iff.1 hand

/-- A row that is the same in both modes, under a top nibble with no further fixed bits. -/
theorem selectsRow_strict_iff_of_sameRow {iw : Word} {h : Handler}
    (hmask : (opcodeRow h).strictMask = (opcodeRow h).muxMask)
    (hmatch : (opcodeRow h).strictMatch = (opcodeRow h).muxMatch)
    (hop : (decodeFields (opcodeRow h).muxMatch).op ∉ [0x0, 0x5, 0x9, 0xE]) :
    selectsRow .strict h iw = true ↔ selectsRow .mux h iw = true ∧ publishedBits iw = true := by
  rw [selectsRow_strict_iff, hmask, hmatch, ← selectsRow_mux_iff]
  exact (and_iff_left_of_imp fun hs => publishedBits_of_op_other (by rwa [op_of_selectsRow_mux hs])).symm

/-- STRICT's row of a handler is its MUX row and the published bits (R130). -/
theorem selectsRow_strict_iff_mux {iw : Word} {h : Handler} : selectsRow .strict h iw = true ↔
    selectsRow .mux h iw = true ∧ publishedBits iw = true := by
  cases h
  case clearScreen | ret =>
    rw [selectsRow_mux_iff, selectsRow_strict_iff]
    refine and_all_eq_iff.trans ⟨?_, ?_⟩
    · rintro rfl
      decide
    · rintro ⟨hs, hp⟩
      obtain ⟨hop, hn⟩ := and_ends_eq_iff.1 hs
      rcases (publishedBits_of_op_0 hop).1 hp with rfl | rfl
      · revert hn; decide
      · revert hn; decide
  case skipRegEq | skipRegNe =>
    rw [selectsRow_mux_iff, selectsRow_strict_iff]
    refine and_ends_eq_iff.trans (Iff.trans ?_ (and_congr_left' and_top_eq_iff.symm))
    exact and_congr_right fun hop => (publishedBits_of_op_5_9 (by rw [hop]; decide)).symm
  case skipKey | skipNotKey =>
    rw [selectsRow_mux_iff, selectsRow_strict_iff]
    refine and_outer_eq_iff.trans (Iff.trans ?_ (and_congr_left' and_ends_eq_iff.symm))
    rw [and_assoc]
    refine and_congr_right fun hop => ?_
    rw [publishedBits_of_op_E hop, decodeFields_n iw]
    generalize (decodeFields iw).kk = kk
    revert kk
    decide
  all_goals exact selectsRow_strict_iff_of_sameRow rfl rfl (by decide)

/-- Settles O4: under MUX `dispatchMux_eq_some_iff`, under STRICT the same and the published bits on both sides. -/
theorem muxFollowsTheOpcodeMap : Obligations.MuxFollowsTheOpcodeMap := by
  intro mode iw h
  cases mode with
  | mux => exact dispatchMux_eq_some_iff
  | strict =>
    rw [selectsRow_strict_iff_mux, ← dispatchMux_eq_some_iff]
    exact dispatchStrict_eq_some_iff

/-! ## Decoding what was encoded (R104, R130, R140) -/

/-- The word of an instruction selects the STRICT row of its handler: the family PublishedWord, for every
instruction. -/
theorem selectsRow_strict_encode (i : Instr) : selectsRow .strict (handlerOf i) (encode i) = true := by
  cases i with
  | clearScreen => exact Laws.PublishedWord.clearScreen
  | ret => exact Laws.PublishedWord.ret
  | jump nnn => exact Laws.PublishedWord.jump nnn
  | call nnn => exact Laws.PublishedWord.call nnn
  | skipEq x kk => exact Laws.PublishedWord.skipEq x kk
  | skipNe x kk => exact Laws.PublishedWord.skipNe x kk
  | skipRegEq x y => exact Laws.PublishedWord.skipRegEq x y
  | loadImm x kk => exact Laws.PublishedWord.loadImm x kk
  | addImm x kk => exact Laws.PublishedWord.addImm x kk
  | copy x y => exact Laws.PublishedWord.copy x y
  | orReg x y => exact Laws.PublishedWord.orReg x y
  | andReg x y => exact Laws.PublishedWord.andReg x y
  | xorReg x y => exact Laws.PublishedWord.xorReg x y
  | addReg x y => exact Laws.PublishedWord.addReg x y
  | subReg x y => exact Laws.PublishedWord.subReg x y
  | shiftRight x y => exact Laws.PublishedWord.shiftRight x y
  | subnReg x y => exact Laws.PublishedWord.subnReg x y
  | shiftLeft x y => exact Laws.PublishedWord.shiftLeft x y
  | skipRegNe x y => exact Laws.PublishedWord.skipRegNe x y
  | loadIndex nnn => exact Laws.PublishedWord.loadIndex nnn
  | jumpOffset nnn => exact Laws.PublishedWord.jumpOffset nnn
  | random x kk => exact Laws.PublishedWord.random x kk
  | draw x y n => exact Laws.PublishedWord.draw x y n
  | skipKey x => exact Laws.PublishedWord.skipKey x
  | skipNotKey x => exact Laws.PublishedWord.skipNotKey x
  | getDelay x => exact Laws.PublishedWord.getDelay x
  | waitKey x => exact Laws.PublishedWord.waitKey x
  | setDelay x => exact Laws.PublishedWord.setDelay x
  | setSound x => exact Laws.PublishedWord.setSound x
  | addIndex x => exact Laws.PublishedWord.addIndex x
  | fontChar x => exact Laws.PublishedWord.fontChar x
  | storeBcd x => exact Laws.PublishedWord.storeBcd x
  | storeRegisters x => exact Laws.PublishedWord.storeRegisters x
  | loadRegisters x => exact Laws.PublishedWord.loadRegisters x

/-- The fields of an instruction's word are its operands: each format is read back by its own slices (R104). -/
theorem assemble_encode {i : Instr} (hwf : i.wellFormed = true) :
    assemble (handlerOf i) (decodeFields (encode i)) = i := by
  cases i
  case draw x y n =>
    have hn : n < 16 := Nat.lt_succ_of_le (of_decide_eq_true hwf)
    simp [handlerOf, assemble, encode, hn]
  all_goals simp [handlerOf, assemble, encode]

/-- The word of an instruction decodes to it: STRICT selects its handler, and so does every mode. -/
theorem decodeWord_encode {i : Instr} (hwf : i.wellFormed = true) (mode : DecodeMode) :
    decodeWord mode (encode i) = some i := by
  have hstrict : dispatch .strict (encode i) = some (handlerOf i) :=
    (muxFollowsTheOpcodeMap .strict _ _).2 (selectsRow_strict_encode i)
  have hd := Machine.dispatch_of_strict hstrict mode
  rw [decodeWord, hd, Option.map_some, assemble_encode hwf]

/-- Settles O7: the two bytes make up the word again, and the word decodes to its instruction in every mode. -/
theorem decodeAfterEncode : Obligations.DecodeAfterEncode := by
  intro mode i rest hwf
  rw [encodeBytes, bytesOfWord, List.cons_append, List.cons_append, List.nil_append]
  simp only [decode, wordOfBytes_bytesOfWord, decodeWord_encode hwf mode]

/-! ## Encoding what was decoded (R104, R117) -/

/-- A height read from the field `n` fits it (R105). -/
theorem wellFormed_assemble (h : Handler) (f : Fields) : (assemble h f).wellFormed = true := by
  cases h
  case draw => exact decide_eq_true (Nat.le_of_lt_succ f.n.isLt)
  all_goals rfl

/-- A word of a STRICT row is the encoding of what its handler reads from it: the row fixes every bit that is in no
operand. -/
theorem encode_assemble {iw : Word} {h : Handler} (hs : selectsRow .strict h iw = true) :
    encode (assemble h (decodeFields iw)) = iw := by
  rw [selectsRow_strict_iff] at hs
  cases h
  case clearScreen | ret => exact (and_all_eq_iff.1 hs).symm
  case jump | call | loadIndex | jumpOffset =>
    have hop := and_top_eq_iff.1 hs
    exact (congrArg (formNNN · _) hop.symm).trans (formNNN_decodeFields iw)
  case skipEq | skipNe | loadImm | addImm | random =>
    have hop := and_top_eq_iff.1 hs
    exact (congrArg (formXKK · _ _) hop.symm).trans (formXKK_decodeFields iw)
  case skipRegEq | copy | orReg | andReg | xorReg | addReg | subReg | shiftRight | subnReg | shiftLeft
      | skipRegNe =>
    obtain ⟨hop, hn⟩ := and_ends_eq_iff.1 hs
    exact (congrArg₂ (formXYN · _ _ ·) hop.symm hn.symm).trans (formXYN_decodeFields iw)
  case draw =>
    have hop := and_top_eq_iff.1 hs
    have hn : BitVec.ofNat 4 (decodeFields iw).n.toNat = (decodeFields iw).n := by simp
    exact (congrArg₂ (formXYN · _ _ ·) hop.symm hn).trans (formXYN_decodeFields iw)
  case skipKey | skipNotKey | getDelay | waitKey | setDelay | setSound | addIndex | fontChar | storeBcd
      | storeRegisters | loadRegisters =>
    obtain ⟨hop, hkk⟩ := and_outer_eq_iff.1 hs
    exact (congrArg₂ (formXKK · _ ·) hop.symm hkk.symm).trans (formXKK_decodeFields iw)

/-- Settles O8: what decodes is assembled from fields, and a word that STRICT decodes selects a STRICT row. -/
theorem encodeAfterStrictDecode : Obligations.EncodeAfterStrictDecode := by
  intro iw i
  constructor
  · intro mode hi
    obtain ⟨h, -, rfl⟩ := Option.map_eq_some_iff.1 hi
    exact wellFormed_assemble h _
  · intro hi
    obtain ⟨h, hd, rfl⟩ := Option.map_eq_some_iff.1 hi
    exact encode_assemble ((muxFollowsTheOpcodeMap .strict iw h).1 hd)

/-! ## The words no table holds (R131, R132) -/

theorem sec0_eq_none_iff : ∀ {n : Nibble}, sec0 n = none ↔ n ∉ [0x0, 0xE] := by decide

theorem sec8_eq_none_iff : ∀ {n : Nibble}, sec8 n = none ↔ n ∈ [0x8, 0x9, 0xA, 0xB, 0xC, 0xD, 0xF] := by decide

theorem secE_eq_none_iff : ∀ {n : Nibble}, secE n = none ↔ n ∉ [0x1, 0xE] := by decide

theorem secF_eq_none_iff : ∀ {kk : Byte},
    secF kk = none ↔ kk ∉ [0x07, 0x0A, 0x15, 0x18, 0x1E, 0x29, 0x33, 0x55, 0x65] := by decide

/-- The mux reaches the placeholder exactly in the empty slots of the secondary tables. -/
theorem dispatchMux_eq_none_iff {iw : Word} :
    dispatchMux iw = none ↔ Machine.illegalUnderMux (decodeFields iw) := by
  simp only [dispatchMux, Machine.illegalUnderMux, ← primary_eq_sec0, ← primary_eq_sec8, ← primary_eq_secE,
    ← primary_eq_secF, ← sec0_eq_none_iff, ← sec8_eq_none_iff, ← secE_eq_none_iff, ← secF_eq_none_iff]
  cases primary (decodeFields iw).op <;> simp

theorem dispatchStrict_eq_none_iff_illegal {iw : Word} : dispatchStrict iw = none ↔
    Machine.illegalUnderMux (decodeFields iw) ∨ Machine.illegalUnderStrictAlso iw (decodeFields iw) := by
  rw [dispatchStrict_eq_none_iff, dispatchMux_eq_none_iff, publishedBits_eq_false_iff]

/-- The aliases of R132 are the words that have a MUX row but miss its published bits. -/
theorem aliasWord_iff {iw : Word} : Machine.aliasWord iw (decodeFields iw) ↔
    ¬ Machine.illegalUnderMux (decodeFields iw) ∧ Machine.illegalUnderStrictAlso iw (decodeFields iw) := by
  unfold Machine.aliasWord Machine.illegalUnderMux Machine.illegalUnderStrictAlso
  by_cases h0 : (decodeFields iw).op = 0x0#4
  · have hclear : (decodeFields iw).n = 0xE → iw ≠ 0x00E0 := by
      rintro hn rfl
      revert hn
      decide
    have hret : (decodeFields iw).n = 0x0 → iw ≠ 0x00EE := by
      rintro hn rfl
      revert hn
      decide
    have hzero : (decodeFields iw).n = 0x0 ∧ iw ≠ 0x00E0 ∨ (decodeFields iw).n = 0xE ∧ iw ≠ 0x00EE ↔
        ((decodeFields iw).n = 0x0 ∨ (decodeFields iw).n = 0xE) ∧ iw ≠ 0x00E0 ∧ iw ≠ 0x00EE := by tauto
    simpa [h0, or_iff_not_imp_left] using hzero
  by_cases h59 : (decodeFields iw).op = 0x5#4 ∨ (decodeFields iw).op = 0x9#4
  · rcases h59 with hop | hop <;> simp [hop]
  by_cases hE : (decodeFields iw).op = 0xE#4
  · have hkey : ∀ kk : Byte,
        kk.extractLsb' 0 4 = 0xE#4 ∧ kk.extractLsb' 4 4 ≠ 0x9#4 ∨
          kk.extractLsb' 0 4 = 0x1#4 ∧ kk.extractLsb' 4 4 ≠ 0xA#4 ↔
        kk.extractLsb' 0 4 ∈ [0x1#4, 0xE#4] ∧ kk ∉ [0x9E#8, 0xA1#8] := by decide
    simpa [hE, decodeFields_y iw, decodeFields_n iw, or_iff_not_imp_left] using hkey (decodeFields iw).kk
  · obtain ⟨h5, h9⟩ := not_or.1 h59
    simp [h0, h5, h9, hE]

/-- Settles O6: a handler of STRICT is the mux's (`decodeWord_of_strict`), and the rest is `aliasWord_iff`. -/
theorem strictDecodingRestrictsMux : Obligations.StrictDecodingRestrictsMux := by
  intro iw
  refine ⟨fun i hi => Machine.decodeWord_of_strict hi .mux, ?_⟩
  simp only [decodeWord, dispatch, ne_eq, Option.map_eq_none_iff]
  rw [dispatchStrict_eq_none_iff_illegal, dispatchMux_eq_none_iff, aliasWord_iff]
  tauto

/-- Settles O9: the decoder is run on each of the ten words. -/
theorem writtenOutWordsDecode : Obligations.WrittenOutWordsDecode :=
  ⟨rfl, rfl, rfl, rfl, rfl, rfl, rfl, rfl, rfl, rfl⟩

end Sys2Proof

namespace Sys2Proof.Machine

/-! ## DecodeFault (R131, R412 to R418) -/

/-- A key test whose test goes on stops only where V[x] names no key (R418). -/
theorem withKeyIndex_fault_of_next {k : Byte} {test : Nat → State} {f : Fault}
    (h : withKeyIndex k (fun n => .next (test n)) = .fault f) : 0xF < k.toNat ∧ f = .keyIndexFault k := by
  simpa using withKeyIndex_fault.1 h

/-- How a meaning stops: with the one fault of its own check (R414, R415, R416, R418). -/
theorem exec_fault {i : Instr} {s : State} {f : Fault} (h : exec i s = .fault f) :
    (∃ nnn, i = .call nnn ∧ s.sp.val = 16 ∧ f = .stackOverflow) ∨
    (i = .ret ∧ s.sp.val = 0 ∧ f = .stackUnderflow) ∨
    (rangeFits s.index (accessLen i) = false ∧ f = .addressOutOfRange s.index (accessLen i)) ∨
    (∃ x, (i = .skipKey x ∨ i = .skipNotKey x) ∧ 0xF < (s.reg x).toNat ∧ f = .keyIndexFault (s.reg x)) := by
  cases i
  case call nnn =>
    obtain ⟨hsp, hf⟩ := execCall_fault.1 h
    exact .inl ⟨nnn, rfl, hsp, hf⟩
  case ret =>
    obtain ⟨hsp, hf⟩ := State.popToPc_fault.1 h
    exact .inr (.inl ⟨rfl, hsp, hf⟩)
  case draw | storeBcd | storeRegisters | loadRegisters =>
    rcases withIndexRange_fault.1 h with hf | ⟨-, hf⟩
    · exact .inr (.inr (.inl hf))
    · cases hf
  case skipKey x =>
    exact .inr (.inr (.inr ⟨x, .inl rfl,
      withKeyIndex_fault_of_next (test := fun k => s.skipIf (keyPressed s.input.key k)) h⟩))
  case skipNotKey x =>
    exact .inr (.inr (.inr ⟨x, .inr rfl,
      withKeyIndex_fault_of_next (test := fun k => s.skipIf (!keyPressed s.input.key k)) h⟩))
  all_goals cases h

theorem exec_ne_decodeFault (i : Instr) (s : State) (iw : Word) : exec i s ≠ .fault (.decodeFault iw) := by
  intro h
  rcases exec_fault h with ⟨_, _, _, hf⟩ | ⟨_, _, hf⟩ | ⟨_, hf⟩ | ⟨_, _, _, hf⟩ <;> cases hf

/-- At a PC that can be fetched, DecodeFault is the answer exactly where the dispatch reaches the placeholder
(R119, R420). -/
theorem step_decodeFault_iff {s : State} (hc : s.canFetch = true) :
    step s = .fault (.decodeFault s.fetchWord) ↔ dispatch s.params.decodeMode s.fetchWord = none := by
  rw [step_fault, s.fetchInstr_eq, decodeWord, Option.map_eq_none_iff]
  simp [hc, exec_ne_decodeFault]

/-- Settles O5: `step_decodeFault_iff` with the placeholder's words of each mode. -/
theorem illegalWordsRaiseDecodeFault : Obligations.IllegalWordsRaiseDecodeFault := by
  intro s hc
  rw [step_decodeFault_iff hc]
  constructor
  · intro hmode
    rw [hmode]
    exact dispatchMux_eq_none_iff
  · intro hmode
    rw [hmode]
    exact dispatchStrict_eq_none_iff_illegal

end Sys2Proof.Machine
end

section
/-! SUPPORT. The display (40_display.md): where the bits of a sprite land (R202, R204), what a draw that goes on
leaves in every pixel and in VF (R202, R203), and the three statements about clear-screen and draw. -/

namespace Sys2Proof.Machine

/-! ## clear-screen -/

/-- Settles O28: clear-screen puts `FrameBuffer.clear` in place of the screen and touches no other field (R201). -/
theorem clearScreenClearsEveryPixel : Obligations.ClearScreenClearsEveryPixel :=
  fun s => ⟨s.setFb FrameBuffer.clear, rfl, FrameBuffer.pixel_clear,
    fun _ _ => rfl, fun _ => rfl, rfl, rfl, ⟨rfl, fun _ => rfl⟩, ⟨rfl, rfl⟩, rfl, rfl, rfl⟩

/-! ## Where the bits of a sprite land -/

/-- The pixel on which row `r` and column `c` of a sprite land that is drawn from column `x0` and row `y0` (R202,
R204). -/
def landing (x0 y0 r c : Nat) : Fin 32 × Fin 64 := (Fin.ofNat 32 (y0 + r), Fin.ofNat 64 (x0 + c))

/-- A row and a column no larger than the screen land on a pixel exactly when they are its distance from the origin
around the torus. -/
theorem landing_eq_iff {x0 y0 r c : Nat} {pr : Fin 32} {pc : Fin 64} (hx : x0 < 64) (hy : y0 < 32) (hr : r < 32)
    (hc : c < 64) :
    landing x0 y0 r c = (pr, pc) ↔ r = (pr.val + 32 - y0) % 32 ∧ c = (pc.val + 64 - x0) % 64 := by
  have hpr := pr.isLt
  have hpc := pc.isLt
  simp only [landing, Prod.mk.injEq, Fin.ext_iff, Fin.ofNat]
  omega

/-- No two places of a sprite land on the same pixel. -/
theorem landing_inj {x0 y0 r c r' c' : Nat} (hx : x0 < 64) (hy : y0 < 32) (hr : r < 32) (hc : c < 64)
    (hr' : r' < 32) (hc' : c' < 64) (h : landing x0 y0 r c = landing x0 y0 r' c') : r = r' ∧ c = c' := by
  obtain ⟨hrow, hcol⟩ := (landing_eq_iff hx hy hr hc).1 h
  obtain ⟨hrow', hcol'⟩ := (landing_eq_iff hx hy hr' hc').1 rfl
  exact ⟨hrow.trans hrow'.symm, hcol.trans hcol'.symm⟩

/-- A sprite bit lands on a pixel when some set bit of the sprite's rows lands there. -/
theorem spriteBitAt_iff {s : State} {n x0 y0 : Nat} {pr : Fin 32} {pc : Fin 64} (hn : n ≤ 32) (hx : x0 < 64)
    (hy : y0 < 32) :
    spriteBitAt s n x0 y0 pr pc = true ↔
      ∃ r < n, ∃ c < 8, (s.byteAt (s.index.toNat + r)).getLsbD (7 - c) = true ∧ landing x0 y0 r c = (pr, pc) := by
  simp only [spriteBitAt, Bool.and_eq_true, decide_eq_true_eq]
  constructor
  · rintro ⟨⟨hr, hc⟩, hbit⟩
    exact ⟨_, hr, _, hc, hbit, (landing_eq_iff hx hy (hr.trans_le hn) (by omega)).2 ⟨rfl, rfl⟩⟩
  · rintro ⟨r, hr, c, hc, hbit, hland⟩
    obtain ⟨rfl, rfl⟩ := (landing_eq_iff hx hy (hr.trans_le hn) (by omega)).1 hland
    exact ⟨⟨hr, hc⟩, hbit⟩

/-- Some sprite bit lands on the screen exactly when some row of the sprite is not 0. -/
theorem exists_spriteBitAt_iff {s : State} {n x0 y0 : Nat} (hn : n ≤ 32) (hx : x0 < 64) (hy : y0 < 32) :
    (∃ pr pc, spriteBitAt s n x0 y0 pr pc = true) ↔ ∃ k, k < n ∧ s.byteAt (s.index.toNat + k) ≠ 0 := by
  simp only [spriteBitAt_iff hn hx hy]
  constructor
  · rintro ⟨pr, pc, r, hr, c, hc, hbit, hland⟩
    refine ⟨r, hr, fun hzero => ?_⟩
    simp [hzero] at hbit
  · rintro ⟨k, hk, hne⟩
    obtain ⟨i, hi, hbit⟩ : ∃ i, i < 8 ∧ (s.byteAt (s.index.toNat + k)).getLsbD i = true := by
      by_contra hall
      push Not at hall
      exact hne (BitVec.eq_of_getLsbD_eq fun i hi => by simpa using hall i hi)
    have hflip : 7 - (7 - i) = i := by omega
    exact ⟨_, _, k, hk, 7 - i, by omega, by rwa [hflip], rfl⟩

/-! ## The landing places as a list -/

/-- The sprite's rows with their numbers. -/
theorem zipIdx_readBytes (m : Memory) (a n : Nat) :
    (m.readBytes a n).zipIdx = (List.range n).map fun r => (m.read (a + r), r) := by
  apply List.ext_getElem <;> simp [Memory.readBytes]

/-- The columns of a sprite row whose bit is 1, bit 7 leftmost (R202). -/
def setColumns (row : Byte) : List Nat := (List.range 8).filter fun c => row.getLsbD (7 - c)

theorem mem_setColumns {row : Byte} {c : Nat} : c ∈ setColumns row ↔ c < 8 ∧ row.getLsbD (7 - c) = true := by
  simp [setColumns]

/-- The landing places of the sprite in memory, row by row. -/
theorem spritePixels_readBytes (m : Memory) (a n x0 y0 : Nat) :
    spritePixels (m.readBytes a n) x0 y0 =
      (List.range n).flatMap fun r => (setColumns (m.read (a + r))).map (landing x0 y0 r) := by
  rw [spritePixels, zipIdx_readBytes, List.flatMap_map]
  rfl

/-- The landing places are the pixels on which a sprite bit lands. -/
theorem mem_spritePixels_iff {s : State} {n x0 y0 : Nat} {pr : Fin 32} {pc : Fin 64} (hn : n ≤ 32) (hx : x0 < 64)
    (hy : y0 < 32) :
    (pr, pc) ∈ spritePixels (s.mem.readBytes (s.effAddr 0) n) x0 y0 ↔ spriteBitAt s n x0 y0 pr pc = true := by
  rw [spritePixels_readBytes, spriteBitAt_iff hn hx hy]
  simp only [List.mem_flatMap, List.mem_range, List.mem_map, mem_setColumns, and_assoc]
  rfl

/-- The landing places of a sprite that fits the screen are all different: two rows share none, and neither do two
columns of a row (R204). -/
theorem nodup_spritePixels (m : Memory) (a : Nat) {n x0 y0 : Nat} (hn : n ≤ 32) (hx : x0 < 64) (hy : y0 < 32) :
    (spritePixels (m.readBytes a n) x0 y0).Nodup := by
  have hcol {row : Byte} {c : Nat} (hc : c ∈ setColumns row) : c < 64 := by
    have := (mem_setColumns.1 hc).1
    omega
  rw [spritePixels_readBytes, List.nodup_flatMap]
  constructor
  · intro r hr
    have hr32 : r < 32 := (List.mem_range.1 hr).trans_le hn
    exact (List.nodup_range.filter _).map_on fun c hc c' hc' h =>
      (landing_inj hx hy hr32 (hcol hc) hr32 (hcol hc') h).2
  · refine List.nodup_range.imp_of_mem fun {r r'} hr hr' hne => List.disjoint_left.2 ?_
    intro p hp hp'
    obtain ⟨c, hc, rfl⟩ := List.mem_map.1 hp
    obtain ⟨c', hc', hland⟩ := List.mem_map.1 hp'
    have hr32 : r < 32 := (List.mem_range.1 hr).trans_le hn
    have hr32' : r' < 32 := (List.mem_range.1 hr').trans_le hn
    exact hne (landing_inj hx hy hr32' (hcol hc') hr32 (hcol hc) hland).1.symm

/-! ## The state after a draw -/

theorem spriteCol_lt (b : Byte) : spriteCol b < 64 := Nat.mod_lt _ (by decide)

theorem spriteRow_lt (b : Byte) : spriteRow b < 32 := Nat.mod_lt _ (by decide)

/-- The sprite bit that a draw of `n` rows at the coordinates in V[x] and V[y] lands on a pixel (R202). -/
def State.drawBit (s : State) (x y : Reg) (n : Nat) (pr : Fin 32) (pc : Fin 64) : Bool :=
  spriteBitAt s n (spriteCol (s.reg x)) (spriteRow (s.reg y)) pr pc

/-- The frame buffer and the collision after the pixel loop of a draw (R202, R203). -/
def State.drawResult (s : State) (x y : Reg) (n : Nat) : FrameBuffer × Bool :=
  drawSprite s.fb (s.mem.readBytes (s.effAddr 0) n) (spriteCol (s.reg x)) (spriteRow (s.reg y))

/-- `s` after a draw whose range fits (R202). -/
def State.drawn (s : State) (x y : Reg) (n : Nat) : State :=
  (s.setFb (s.drawResult x y n).1).setReg VF (flagByte (s.drawResult x y n).2)

/-- A draw that goes on: the range fits, and the sprite is drawn. -/
theorem exec_draw_next {s t : State} {x y : Reg} {n : Nat} :
    exec (.draw x y n) s = .next t ↔ rangeFits s.index n = true ∧ t = s.drawn x y n := by
  rw [show exec (.draw x y n) s = withIndexRange s n (.next (s.drawn x y n)) from rfl, withIndexRange_next,
    Host.Outcome.next.injEq, eq_comm (b := t)]

/-- A draw changes pixels and VF alone (R202). -/
theorem State.onlyScreenAndRegs_drawn (s : State) (x y : Reg) (n : Nat) :
    OnlyScreenAndRegs s (s.drawn x y n) (fun r => r = VF) :=
  ⟨fun r hr => (State.reg_setReg _ VF r _).trans (if_neg hr), fun _ => rfl, rfl, rfl, ⟨rfl, fun _ => rfl⟩,
    ⟨rfl, rfl⟩, rfl, rfl, rfl⟩

/-- A second draw lands the same sprite bits, where no coordinate is in VF. -/
theorem State.drawBit_drawn (s : State) {x y : Reg} (n : Nat) (hx : x ≠ VF) (hy : y ≠ VF) :
    (s.drawn x y n).drawBit x y n = s.drawBit x y n := by
  obtain ⟨hregs, -⟩ := s.onlyScreenAndRegs_drawn x y n
  unfold State.drawBit
  rw [hregs x hx, hregs y hy]
  rfl

section Drawn

variable (s : State) (x y : Reg) {n : Nat} (hn : n ≤ 32)

include hn

/-- Every pixel is XORed with the sprite bit that lands on it (R203). -/
theorem State.pixel_drawn (pr : Fin 32) (pc : Fin 64) :
    (s.drawn x y n).fb.pixel pr pc = (s.fb.pixel pr pc ^^ s.drawBit x y n pr pc) := by
  have hcol := spriteCol_lt (s.reg x)
  have hrow := spriteRow_lt (s.reg y)
  have hfold := pixel_foldl_drawPixel (nodup_spritePixels s.mem (s.effAddr 0) hn hcol hrow) (s.fb, false) pr pc
  simp only [mem_spritePixels_iff hn hcol hrow, Bool.decide_eq_true] at hfold
  exact hfold

/-- The draw collides exactly when a set bit of the sprite lands on a set pixel (R203). -/
theorem State.collision_drawResult : (s.drawResult x y n).2 = true ↔
    ∃ pr pc, s.drawBit x y n pr pc = true ∧ s.fb.pixel pr pc = true := by
  have hcol := spriteCol_lt (s.reg x)
  have hrow := spriteRow_lt (s.reg y)
  have hfold := collision_foldl_drawPixel (nodup_spritePixels s.mem (s.effAddr 0) hn hcol hrow) (s.fb, false)
  simp only [Bool.false_eq_true, false_or, Prod.exists, mem_spritePixels_iff hn hcol hrow] at hfold
  exact hfold

/-- VF after a draw is 1 where a set bit of the sprite landed on a set pixel, and 0 otherwise (R203). -/
theorem State.reg_VF_drawn : (s.drawn x y n).reg VF =
    if ∃ pr pc, s.drawBit x y n pr pc = true ∧ s.fb.pixel pr pc = true then 1 else 0 := by
  rw [State.drawn, State.reg_setReg, if_pos rfl, flagByte]
  simp only [s.collision_drawResult x y hn]

end Drawn

/-! ## The statements about draw -/

/-- The obligations' way to say that a range leaves memory (R76). -/
theorem rangeFits_iff_not_beyond {base : Word} {n : Nat} :
    rangeFits base n = true ↔ ¬ (0 < n ∧ 0xFFF < base.toNat + n - 1) := by
  rw [rangeFits_iff]
  omega

/-- Settles O29: outside memory the range check answers; inside, `State.pixel_drawn` and `State.reg_VF_drawn` say
what the drawn state holds, and `State.onlyScreenAndRegs_drawn` what it keeps. -/
theorem drawXorsTheSpriteAndReportsCollision : Obligations.DrawXorsTheSpriteAndReportsCollision := by
  intro x y n s hn
  have hn32 : n ≤ 32 := hn.trans (by decide)
  constructor
  · intro hbeyond
    have hfits : rangeFits s.index n = false :=
      Bool.eq_false_iff.2 fun h => rangeFits_iff_not_beyond.1 h hbeyond
    exact withIndexRange_fault.2 (.inl ⟨hfits, rfl⟩)
  · intro hinside
    exact ⟨s.drawn x y n, exec_draw_next.2 ⟨rangeFits_iff_not_beyond.2 hinside, rfl⟩, s.pixel_drawn x y hn32,
      fun hit => (s.reg_VF_drawn x y hn32).trans (if_pos hit),
      fun hmiss => (s.reg_VF_drawn x y hn32).trans (if_neg hmiss), s.onlyScreenAndRegs_drawn x y n⟩

/-- Settles O30: both draws land the same bits (`State.drawBit_drawn`), so the second XOR undoes the first; on a clear
screen the first leaves exactly the sprite's bits set, and the second hits them. -/
theorem drawingTwiceErases : Obligations.DrawingTwiceErases := by
  intro x y n s t u hx hy hn ht hu
  have hn32 : n ≤ 32 := hn.trans (by decide)
  obtain ⟨-, rfl⟩ := exec_draw_next.1 ht
  obtain ⟨-, rfl⟩ := exec_draw_next.1 hu
  have hbit := s.drawBit_drawn n hx hy
  constructor
  · intro r c
    rw [State.pixel_drawn _ x y hn32, hbit, State.pixel_drawn _ x y hn32, Bool.xor_assoc, Bool.xor_self,
      Bool.xor_false]
  · intro hclear
    constructor
    · rw [State.reg_VF_drawn _ x y hn32]
      simp [hclear]
    · have hdrawn (r : Fin 32) (c : Fin 64) : (s.drawn x y n).fb.pixel r c = s.drawBit x y n r c := by
        rw [State.pixel_drawn _ x y hn32, hclear, Bool.false_xor]
      have hsprite : (∃ r c, s.drawBit x y n r c = true) ↔ ∃ k, k < n ∧ s.byteAt (s.index.toNat + k) ≠ 0 :=
        exists_spriteBitAt_iff hn32 (spriteCol_lt _) (spriteRow_lt _)
      rw [State.reg_VF_drawn _ x y hn32, ← hsprite]
      simp [hbit, hdrawn]

end Sys2Proof.Machine
end

section
/-! SUPPORT. Control flow (41_control_flow.md): the PC check and the fetch (R222, R223), the transfers of control and
the skips (R224 to R233), PC after a tick (R224), and the statements about them. -/

namespace Sys2Proof.Machine

/-! ## The decoded instruction runs (R220 to R222) -/

theorem step_of_fetchInstr {s : State} {i : Instr} (hc : s.canFetch = true) (hi : s.fetchInstr = some i) :
    step s = finishTick (exec i s.preAdvance) := by
  rw [step, if_pos hc, hi]

theorem State.fetchInstr_of_decode {s : State} {i : Instr} {rest : List Byte}
    (h : decode s.params.decodeMode s.fetchBytes = .ok (i, rest)) : s.fetchInstr = some i := by
  rw [State.fetchInstr, h]

/-- Settles O10: the decoded instruction is the fetched one, and the pre-advance is PC moved on by 2. -/
theorem stepRunsTheDecodedInstruction : Obligations.StepRunsTheDecodedInstruction :=
  fun _ _ _ hc h => step_of_fetchInstr hc (State.fetchInstr_of_decode h)

/-- Settles O11: the encoding decodes to its instruction in either mode (`decodeAfterEncode`). -/
theorem encodedBytesAtPcRun : Obligations.EncodedBytesAtPcRun := by
  intro s i hwf hc hbytes
  have hdecode : decode s.params.decodeMode s.fetchBytes = .ok (i, []) := by
    have h := decodeAfterEncode s.params.decodeMode i [] hwf
    rwa [List.append_nil, ← hbytes] at h
  exact step_of_fetchInstr hc (State.fetchInstr_of_decode hdecode)

/-! ## A word placed for the next fetch (log entry 8) -/

theorem pcFetchable_placeAddr (s : State) : pcFetchable s.params.pcCheck s.placeAddr = true := by
  unfold State.placeAddr
  split
  · next hc => exact hc
  · exact pcFetchable_of_strict (by decide) _

theorem State.fetchWord_placeWord (s : State) (iw : Word) : (s.placeWord iw).fetchWord = iw := by
  rw [State.fetchWord, State.placeWord, State.setPc_pc, State.byteAt_setPc, State.byteAt_setPc, State.byteAt_setMem,
    State.byteAt_setMem, Memory.read_writeBytes, Memory.read_writeBytes]
  simpa [bytesOfWord] using wordOfBytes_bytesOfWord iw

/-- Settles O12: the address of the placed word passes the check, and its two bytes are read back. -/
theorem placedWordIsFetchedNext : Obligations.PlacedWordIsFetchedNext := by
  intro s w
  refine ⟨pcFetchable_placeAddr s, (s.fetchWord_placeWord _).trans ?_⟩
  exact BitVec.eq_of_toNat_eq (by simp [tableWord])

/-! ## The PC check (R223, R417) -/

/-- No meaning raises a PcFault: no instruction checks its target (R224, R234). -/
theorem exec_ne_pcFault (i : Instr) (s : State) (p : Word) : exec i s ≠ .fault (.pcFault p) := by
  intro h
  rcases exec_fault h with ⟨_, _, _, hf⟩ | ⟨_, _, hf⟩ | ⟨_, hf⟩ | ⟨_, _, _, hf⟩ <;> cases hf

theorem step_pcFault_iff {s : State} : step s = .fault (.pcFault s.pc) ↔ s.canFetch = false := by
  simp [step_fault, exec_ne_pcFault]

theorem pcFetchable_strict_eq_false_iff {pc : Word} :
    pcFetchable .strict pc = false ↔ pc.toNat % 2 = 1 ∨ pc.toNat < 0x200 ∨ 0xFFE < pc.toNat := by
  simp [pcFetchable, imp_iff_not_or]

theorem pcFetchable_bounds_eq_false_iff {pc : Word} : pcFetchable .bounds pc = false ↔ 0xFFE < pc.toNat := by
  simp [pcFetchable]

/-- Settles O13: PcFault is the answer exactly where the check fails (`step_pcFault_iff`), read in each mode. -/
theorem pcCheckAtFetch : Obligations.PcCheckAtFetch := by
  intro s
  rw [step_pcFault_iff, State.canFetch]
  constructor
  · intro hmode
    rw [hmode]
    exact pcFetchable_strict_eq_false_iff
  · intro hmode
    rw [hmode]
    exact pcFetchable_bounds_eq_false_iff

/-! ## Jumps and skips (R225, R227, R229 to R233) -/

@[simp] theorem toNat_zextNnn (nnn : Addr12) : (zextNnn nnn).toNat = nnn.toNat :=
  BitVec.toNat_setWidth_of_le (by decide)

@[simp] theorem toNat_zextByte (b : Byte) : (zextByte b).toNat = b.toNat :=
  BitVec.toNat_setWidth_of_le (by decide)

/-- The target of jump-offset does not wrap (R233). -/
theorem toNat_jumpOffset (nnn : Addr12) (b : Byte) : (zextNnn nnn + zextByte b).toNat = nnn.toNat + b.toNat := by
  have hn : nnn.toNat < 4096 := nnn.isLt
  have hb : b.toNat < 256 := b.isLt
  rw [BitVec.toNat_add, toNat_zextNnn, toNat_zextByte]
  omega

theorem State.onlyPc_setPc (s : State) (w : Word) : OnlyPc s (s.setPc w) :=
  ⟨fun _ _ => rfl, rfl, fun _ => rfl, fun _ _ => rfl, ⟨rfl, fun _ => rfl⟩, ⟨rfl, rfl⟩, rfl, rfl, rfl⟩

/-- Settles O31: each jump is a `setPc`, and the sum of jump-offset does not wrap. -/
theorem jumpsTakeTheirTarget : Obligations.JumpsTakeTheirTarget := fun s nnn =>
  ⟨⟨_, rfl, toNat_zextNnn nnn, s.onlyPc_setPc _⟩, ⟨_, rfl, toNat_jumpOffset nnn (s.reg 0), s.onlyPc_setPc _⟩⟩

/-- PC after a skip on the condition `c` (R225). -/
theorem State.skipIf_pc (s : State) (c : Bool) : (s.skipIf c).pc = if c then s.pc + 2 else s.pc := by
  rw [State.skipIf_eq, State.setPc_pc]

theorem State.onlyPc_skipIf (s : State) (c : Bool) : OnlyPc s (s.skipIf c) := by
  rw [State.skipIf_eq]
  exact s.onlyPc_setPc _

/-- Settles O35: each of the four is a `skipIf` on the test of its condition. -/
theorem registerSkipsAdvanceByTwo : Obligations.RegisterSkipsAdvanceByTwo := by
  intro s
  refine ⟨fun x kk => ⟨_, rfl, ?_, s.onlyPc_skipIf _⟩, fun x kk => ⟨_, rfl, ?_, s.onlyPc_skipIf _⟩,
    fun x y => ⟨_, rfl, ?_, s.onlyPc_skipIf _⟩, fun x y => ⟨_, rfl, ?_, s.onlyPc_skipIf _⟩⟩
  all_goals simp [State.skipIf_pc]

/-! ## call and return (R226, R228) -/

theorem exec_call_of_room {s : State} (nnn : Addr12) (room : s.sp.val < 16) :
    exec (.call nnn) s = .next (s.called nnn room) :=
  execCall_next.2 ⟨room, rfl⟩

theorem exec_ret_of_pos {s : State} (hpos : s.sp.val ≠ 0) (lt : s.sp.val - 1 < 16) :
    exec .ret s = .next (s.returned lt) :=
  State.popToPc_next.2 ⟨hpos, lt, rfl⟩

theorem State.onlyPcAndStack_called (s : State) (nnn : Addr12) (room : s.sp.val < 16) :
    OnlyPcAndStack s (s.called nnn room) (fun j => j.val = s.sp.val) :=
  ⟨fun j hj => (s.stackEntry_called nnn room j).trans (if_neg hj), fun _ _ => rfl, fun _ => rfl, rfl,
    fun _ _ => rfl, ⟨rfl, rfl⟩, rfl, rfl, rfl⟩

theorem State.onlyPcAndStack_returned (s : State) (lt : s.sp.val - 1 < 16) :
    OnlyPcAndStack s (s.returned lt) (fun _ => False) :=
  ⟨fun _ _ => rfl, fun _ _ => rfl, fun _ => rfl, rfl, fun _ _ => rfl, ⟨rfl, rfl⟩, rfl, rfl, rfl⟩

/-- Settles O32: a full stack overflows (`execCall_fault`), and any other has room for `State.called`. -/
theorem callPushesTheReturnAddress : Obligations.CallPushesTheReturnAddress := by
  intro s nnn
  constructor
  · intro hfull
    exact execCall_fault.2 ⟨congrArg Fin.val hfull, rfl⟩
  · intro hnot
    have room : s.sp.val < 16 := Nat.lt_of_le_of_ne (Nat.le_of_lt_succ s.sp.isLt) fun h => hnot (Fin.ext h)
    exact ⟨s.called nnn room, exec_call_of_room nnn room, toNat_zextNnn nnn, rfl,
      fun j hj => (s.stackEntry_called nnn room j).trans (if_pos hj), s.onlyPcAndStack_called nnn room⟩

/-- Settles O33: an empty stack underflows (`State.popToPc_fault`), and any other has a top entry for
`State.returned`. -/
theorem returnTakesTheTopEntry : Obligations.ReturnTakesTheTopEntry := by
  intro s
  constructor
  · intro hempty
    exact State.popToPc_fault.2 ⟨congrArg Fin.val hempty, rfl⟩
  · intro hnot
    have hpos : s.sp.val ≠ 0 := fun h => hnot (Fin.ext h)
    have lt : s.sp.val - 1 < 16 := by omega
    refine ⟨s.returned lt, exec_ret_of_pos hpos lt, Nat.sub_one_add_one hpos, fun j hj => ?_,
      s.onlyPcAndStack_returned lt⟩
    have htop : (⟨s.sp.val - 1, lt⟩ : Fin 16) = j := Fin.ext (by simp only [← hj, Nat.add_sub_cancel])
    exact congrArg s.stackEntry htop

/-- Settles O34: the return pops the entry that the call pushed, which is none of the occupied ones. -/
theorem callThenReturnComesBack : Obligations.CallThenReturnComesBack := by
  intro s t nnn h
  obtain ⟨room, rfl⟩ : ∃ room, t = s.called nnn room := execCall_next.1 h
  have hentry := s.stackEntry_called nnn room
  have lt : (s.called nnn room).sp.val - 1 < 16 := room
  exact ⟨(s.called nnn room).returned lt, exec_ret_of_pos (Nat.succ_ne_zero _) lt,
    (hentry ⟨s.sp.val, room⟩).trans (if_pos rfl), rfl, fun j hj => (hentry j).trans (if_neg hj.ne)⟩

/-! ## PC after a tick (R224) -/

/-- PC after a skip that the tick of the instruction at `s.pc` makes (R221, R225). -/
theorem State.skipIf_preAdvance_pc (s : State) (c : Bool) :
    (s.preAdvance.skipIf c).pc = if c then s.pc + 4 else s.pc + 2 := by
  rw [State.skipIf_pc, State.preAdvance_pc, BitVec.add_assoc]
  rfl

/-- There is a lowest pressed key unless none is pressed (R42, R345). -/
theorem lowestKey_eq_none_iff {key : BitVec 16} : lowestKey key = none ↔ key = 0 := by
  simp only [lowestKey, keyPressed, List.find?_eq_none, List.mem_range]
  constructor
  · intro h
    refine BitVec.eq_of_getLsbD_eq fun k hk => ?_
    simpa using h k hk
  · rintro rfl k -
    simp

/-- A blocked wait-key undoes the pre-advance, any other keeps it (R345). -/
theorem State.takeKey_preAdvance_pc (s : State) (x : Reg) : (s.preAdvance.takeKey x (lowestKey s.input.key)).pc =
    if s.input.key = 0 then s.pc else s.pc + 2 := by
  rcases s.preAdvance.takeKey_eq x (lowestKey s.input.key) with ⟨n, hk, ht⟩ | ⟨hk, ht⟩
  · have hkey : s.input.key ≠ 0 := fun h => by simp [lowestKey_eq_none_iff.2 h] at hk
    rw [ht, if_neg hkey, State.setReg_pc, State.preAdvance_pc]
  · rw [ht, if_pos (lowestKey_eq_none_iff.1 hk), State.setPc_pc, State.preAdvance_pc, BitVec.add_sub_cancel]

/-- Where the meaning of the instruction at `s.pc` leaves PC, if it goes on (R224). -/
theorem pc_of_exec_preAdvance {i : Instr} {s t : State} (h : exec i s.preAdvance = .next t) :
    t.pc = pcAfterTick i s := by
  cases i
  case ret =>
    obtain ⟨-, lt, rfl⟩ := State.popToPc_next.1 h
    simp only [pcAfterTick, dif_pos (show s.sp.val - 1 < 16 from lt)]
    rfl
  case call nnn =>
    obtain ⟨-, rfl⟩ := execCall_next.1 h
    rfl
  case skipEq | skipNe | skipRegEq | skipRegNe =>
    cases h
    simp [State.skipIf_preAdvance_pc, pcAfterTick]
  case skipKey x | skipNotKey x =>
    simp only [exec, execSkipKey, execSkipNotKey] at h
    obtain ⟨-, h⟩ := withKeyIndex_next.1 h
    cases h
    simp [State.skipIf_preAdvance_pc, pcAfterTick, keyPressed]
  case waitKey x =>
    cases h
    exact s.takeKey_preAdvance_pc x
  case loadImm | addImm | copy | orReg | andReg | xorReg | addReg | subReg | shiftRight | subnReg | shiftLeft =>
    cases h
    exact State.writeBack_pc ..
  case draw | storeBcd | storeRegisters | loadRegisters =>
    obtain ⟨-, h⟩ := withIndexRange_next.1 h
    cases h
    rfl
  case clearScreen | jump | loadIndex | jumpOffset | random | getDelay | setDelay | setSound | addIndex | fontChar =>
    cases h
    rfl

/-- A tick that faults hands back the state it started from (R411). -/
theorem tick_of_fault {s : State} {f : Fault} (h : step s = .fault f) : tick s = some (s, .fault f) := by
  rw [tick, h]

/-- Settles O18: PC is where the meaning leaves it, as the end of the tick keeps it; a faulting tick keeps the state; no
meaning raises a PcFault. -/
theorem pcAfterEveryTick : Obligations.PcAfterEveryTick := by
  intro s i hi
  refine ⟨fun t h => ?_, fun f u st hf htick => ?_, exec_ne_pcFault i⟩
  · obtain ⟨-, j, u, hj, hexec, rfl⟩ := step_next.1 h
    obtain rfl : i = j := Option.some.inj (hi.symm.trans hj)
    exact u.endTick_pc.trans (pc_of_exec_preAdvance hexec)
  · rw [tick_of_fault hf] at htick
    cases htick
    rfl

/-! ## A jump to its own address (R227, R431) -/

theorem toNat_decayTimer (t : Byte) : (decayTimer t).toNat = t.toNat - 1 := by
  unfold decayTimer
  split
  · next h => rw [h]; rfl
  · bv_omega

/-- A run whose first tick goes on is the run from the state after it. -/
theorem run_succ_of_step {s t : State} (h : step s = .next t) (k : Nat) : core.run (k + 1) s = core.run k t := by
  have hstep : core.step s = .next t := h
  simp only [Host.Core.run, hstep]

/-- One tick of a jump to its own address is the end of a tick and no more (R221, R227). -/
theorem step_selfJump {s : State} {nnn : Addr12} (hc : s.canFetch = true) (hi : s.fetchInstr = some (.jump nnn))
    (hself : nnn.toNat = s.pc.toNat) : step s = .next s.endTick := by
  have htarget : zextNnn nnn = s.pc := BitVec.eq_of_toNat_eq ((toNat_zextNnn nnn).trans hself)
  have hexec : exec (.jump nnn) s.preAdvance = .next s := by
    rw [exec, execJump, htarget]
    rfl
  exact step_next.2 ⟨hc, _, s, hi, hexec, rfl⟩

/-- Settles O36, by induction on the number of ticks: after the first one the same jump is fetched from the state after
`endTick`, which differs from `s` in the timers and the tick inputs only. -/
theorem selfJumpOnlyDecaysTheTimers : Obligations.SelfJumpOnlyDecaysTheTimers := by
  intro k
  induction k with
  | zero => exact fun s _ _ _ _ => ⟨s, rfl, rfl, rfl, rfl, rfl, rfl, rfl, rfl, rfl, rfl⟩
  | succ k ih =>
    intro s nnn hc hi hself
    have hstep : step s = .next s.endTick := step_selfJump hc hi hself
    obtain ⟨t, hrun, hpc, hdt, hst, hkept⟩ := ih s.endTick nnn hc hi hself
    refine ⟨t, (run_succ_of_step hstep k).trans hrun, hpc, ?_, ?_, hkept⟩
    · rw [hdt, State.endTick_dt, toNat_decayTimer, Nat.sub_sub, Nat.add_comm]
    · rw [hst, State.endTick_st, toNat_decayTimer, Nat.sub_sub, Nat.add_comm]

end Sys2Proof.Machine
end

section
/-! SUPPORT. The ALU instructions (42_alu.md): what a write of registers leaves unchanged (R263), the ALU of the flag
writers in plain arithmetic (R261, R265), and the four statements about the register writers and the flag writers. -/

namespace Sys2Proof.Machine

/-! ## What a register write leaves -/

/-- An update of the registers changes those alone that it does not keep. -/
theorem State.onlyRegs_setRegs (s : State) {v : Vector Byte 16} {changed : Reg → Prop}
    (kept : ∀ r : Reg, ¬ changed r → v[r.val] = s.reg r) : OnlyRegs s (s.setRegs v) changed :=
  ⟨kept, rfl, rfl, fun _ => rfl, fun _ _ => rfl, ⟨rfl, fun _ => rfl⟩, ⟨rfl, rfl⟩, rfl, rfl, rfl⟩

theorem State.onlyRegs_setReg (s : State) (x : Reg) (b : Byte) : OnlyRegs s (s.setReg x b) (fun r => r = x) :=
  s.onlyRegs_setRegs fun r hr => (s.reg_setReg x r b).trans (if_neg hr)

theorem State.reg_setReg_same (s : State) (x : Reg) (b : Byte) : (s.setReg x b).reg x = b :=
  (s.reg_setReg x x b).trans (if_pos rfl)

/-! ## The writers of one register (R270 to R275, R281) -/

/-- The write-back of a result without a flag writes V[x] alone, VF only where it is the destination (R263). -/
theorem State.writeBack_of_flag_none (s : State) (x : Reg) {o : AluOut} (h : o.flag = none) :
    (s.writeBack x o).reg x = o.res ∧ OnlyRegs s (s.writeBack x o) (fun r => r = x) := by
  have hset : s.writeBack x o = s.setReg x o.res := by rw [State.writeBack, h]
  rw [hset]
  exact ⟨s.reg_setReg_same x o.res, s.onlyRegs_setReg x o.res⟩

/-- Settles O37: each of the six is a write-back of a result without a flag, and the sum of add-imm wraps. -/
theorem plainRegisterWrites : Obligations.PlainRegisterWrites := by
  intro s x
  have hplain {o : AluOut} (h : o.flag = none) := s.writeBack_of_flag_none x h
  refine ⟨fun kk => ⟨_, rfl, hplain rfl⟩, fun kk => ⟨_, rfl, ?_⟩, fun y => ⟨_, rfl, hplain rfl⟩,
    fun y => ⟨_, rfl, hplain rfl⟩, fun y => ⟨_, rfl, hplain rfl⟩, fun y => ⟨_, rfl, hplain rfl⟩⟩
  obtain ⟨hsum, honly⟩ := hplain (o := alu .addNf (s.reg x) kk) rfl
  exact ⟨(congrArg BitVec.toNat hsum).trans (BitVec.toNat_add ..), honly⟩

/-- Settles O40: random is one register write, and a mask keeps no bit of its complement. -/
theorem randomStaysUnderItsMask : Obligations.RandomStaysUnderItsMask := by
  intro s x kk
  have hreg : (s.setReg x (s.input.rnd &&& kk)).reg x = s.input.rnd &&& kk := s.reg_setReg_same x _
  refine ⟨_, rfl, hreg, ?_, s.onlyRegs_setReg x _⟩
  rw [hreg, BitVec.and_assoc, BitVec.and_not_self]
  exact BitVec.and_zero

/-! ## The flag writers (R264, R276 to R280) -/

theorem alu_add (a b : Byte) : alu .add a b =
    ⟨BitVec.ofNat 8 (a.toNat + b.toNat), some (decide (0xFF < a.toNat + b.toNat))⟩ := by
  rw [alu, BitVec.add_def]

theorem alu_sub (a b : Byte) : alu .sub a b =
    ⟨BitVec.ofNat 8 (256 + a.toNat - b.toNat), some (decide (b.toNat ≤ a.toNat))⟩ := by
  have hres : a - b = BitVec.ofNat 8 (256 + a.toNat - b.toNat) := by bv_omega
  rw [alu, hres]

theorem alu_subn (a b : Byte) : alu .subn a b =
    ⟨BitVec.ofNat 8 (256 + b.toNat - a.toNat), some (decide (a.toNat ≤ b.toNat))⟩ :=
  alu_sub b a

theorem alu_shr (a b : Byte) : alu .shr a b = ⟨BitVec.ofNat 8 (a.toNat / 2), some (decide (a.toNat % 2 = 1))⟩ := by
  have hres : a >>> 1 = BitVec.ofNat 8 (a.toNat / 2) := by bv_omega
  have hflag : a.getLsbD 0 = decide (a.toNat % 2 = 1) := by
    rw [BitVec.getLsbD, Nat.testBit_zero]
  rw [alu, hres, hflag]

theorem alu_shl (a b : Byte) : alu .shl a b = ⟨BitVec.ofNat 8 (2 * a.toNat), some (decide (128 ≤ a.toNat))⟩ := by
  have hres : a <<< 1 = BitVec.ofNat 8 (2 * a.toNat) := by bv_omega
  have hflag : a.getLsbD 7 = decide (128 ≤ a.toNat) := a.msb_eq_decide
  rw [alu, hres, hflag]

theorem State.onlyRegs_writeBack (s : State) (x : Reg) (o : AluOut) :
    OnlyRegs s (s.writeBack x o) (fun r => r = x ∨ r = VF) := by
  have kept : ∀ r : Reg, ¬ (r = x ∨ r = VF) → (s.writeBack x o).reg r = s.reg r := by
    intro r hr
    obtain ⟨hx, hf⟩ := not_or.1 hr
    exact s.reg_writeBack_of_ne hx (.inl hf)
  obtain ⟨v, e⟩ := s.writeBack_eq x o
  rw [e] at kept ⊢
  exact s.onlyRegs_setRegs kept

/-- The write-back of a result and a flag is the write of both that R263 and R264 ask for. -/
theorem State.flagWrite_writeBack (s : State) (x : Reg) (res : Byte) (f : Bool) :
    FlagWrite s (s.writeBack x ⟨res, some f⟩) x res (flagByte f) := by
  have hVF : (s.writeBack x ⟨res, some f⟩).reg VF =
      if x = VF then vfAsDest s.params.vfDestWinner res (flagByte f) else flagByte f :=
    (s.reg_writeBack x VF _).trans (if_pos rfl)
  refine ⟨fun hx => ⟨?_, ?_⟩, fun hx hw => ?_, fun hx hw => ?_, s.onlyRegs_writeBack x _⟩
  · simp [State.reg_writeBack, hx]
  · rw [hVF, if_neg hx]
  · rw [hVF, if_pos hx, hw, vfAsDest]
  · rw [hVF, if_pos hx, hw, vfAsDest]

/-- A meaning that writes back a result and the truth of `p` is a flag writer. -/
theorem exists_flagWrite {i : Instr} {s : State} {x : Reg} {o : AluOut} {res : Byte} {p : Prop} [Decidable p]
    (hexec : exec i s = .next (s.writeBack x o)) (ho : o = ⟨res, some (decide p)⟩) :
    ∃ t, exec i s = .next t ∧ FlagWrite s t x res (if p then 1 else 0) := by
  have hflag : flagByte (decide p) = if p then 1 else 0 := by simp [flagByte]
  subst ho
  exact ⟨_, hexec, hflag ▸ s.flagWrite_writeBack x res (decide p)⟩

/-- Settles O38: each of the five writes back what the ALU makes of V[x] and V[y], said in plain arithmetic. -/
theorem flagWritersResultAndFlag : Obligations.FlagWritersResultAndFlag := fun _ _ _ =>
  ⟨exists_flagWrite rfl (alu_add ..), exists_flagWrite rfl (alu_sub ..), exists_flagWrite rfl (alu_shr ..),
    exists_flagWrite rfl (alu_subn ..), exists_flagWrite rfl (alu_shl ..)⟩

/-- Where the destination is not VF, a flag writer leaves its result in V[x], and in VF whether `p` holds (R263). -/
theorem toNat_reg_of_flagWriter {i : Instr} {s t : State} {x : Reg} {n : Nat} {p : Prop} [Decidable p] (hx : x ≠ VF)
    (hw : ∃ u, exec i s = .next u ∧ FlagWrite s u x (BitVec.ofNat 8 n) (if p then 1 else 0))
    (h : exec i s = .next t) :
    (t.reg x).toNat = n % 256 ∧ (p ∧ (t.reg VF).toNat = 1 ∨ ¬ p ∧ (t.reg VF).toNat = 0) := by
  obtain ⟨u, hu, hboth, -⟩ := hw
  obtain rfl : u = t := Host.Outcome.next.inj (hu.symm.trans h)
  obtain ⟨hres, hflag⟩ := hboth hx
  rw [hres, hflag]
  refine ⟨BitVec.toNat_ofNat .., ?_⟩
  by_cases hp : p
  · exact .inl ⟨hp, by rw [if_pos hp]; rfl⟩
  · exact .inr ⟨hp, by rw [if_neg hp]; rfl⟩

/-- Settles O39: the identities are the arithmetic of the results and flags that `flagWritersResultAndFlag` gives. -/
theorem flagWriterIdentities : Obligations.FlagWriterIdentities := by
  intro s t x y hx
  have ha : (s.reg x).toNat < 256 := (s.reg x).isLt
  have hb : (s.reg y).toNat < 256 := (s.reg y).isLt
  obtain ⟨hadd, hsub, hshr, hsubn, hshl⟩ := flagWritersResultAndFlag s x y
  refine ⟨fun h => ?_, fun h => ?_, fun h => ?_, fun h => ?_, fun h => ?_⟩
  · have := toNat_reg_of_flagWriter hx hadd h
    omega
  · have := toNat_reg_of_flagWriter hx hsub h
    omega
  · have := toNat_reg_of_flagWriter hx hsubn h
    omega
  · have := toNat_reg_of_flagWriter hx hshr h
    omega
  · have := toNat_reg_of_flagWriter hx hshl h
    omega

end Sys2Proof.Machine
end

section
/-! SUPPORT. The index and memory instructions (43_index_memory.md): the writers of I (R310 to R312), the range check in
numbers (R76, R416), what bytes written at I leave (R73, R78), and the statements about the BCD and the bank moves
(R313 to R315). -/

namespace Sys2Proof.Machine

/-! ## The writers of I (R310 to R312) -/

theorem State.onlyIndex_setIndex (s : State) (w : Word) : OnlyIndex s (s.setIndex w) :=
  ⟨fun _ _ => rfl, rfl, fun _ => rfl, fun _ _ => rfl, ⟨rfl, fun _ => rfl⟩, ⟨rfl, rfl⟩, rfl, rfl, rfl⟩

theorem toNat_add_zextByte (w : Word) (b : Byte) : (w + zextByte b).toNat = (w.toNat + b.toNat) % 65536 := by
  rw [BitVec.toNat_add, toNat_zextByte]

/-- Five times a byte fits in I (R312). -/
theorem toNat_zextByte_mul_five (b : Byte) : (zextByte b * 5).toNat = b.toNat * 5 := by
  have hb : b.toNat < 256 := b.isLt
  have hfits : b.toNat * 5 < 2 ^ 16 := by omega
  rw [BitVec.toNat_mul, toNat_zextByte]
  exact Nat.mod_eq_of_lt hfits

/-- Settles O41: each of the three is a `setIndex`, and of their values the sum of add-index alone wraps. -/
theorem indexWritersCompute : Obligations.IndexWritersCompute := fun s =>
  ⟨fun nnn => ⟨_, rfl, toNat_zextNnn nnn, s.onlyIndex_setIndex _⟩,
    fun x => ⟨_, rfl, toNat_add_zextByte s.index (s.reg x), s.onlyIndex_setIndex _⟩,
    fun x => ⟨_, rfl, toNat_zextByte_mul_five (s.reg x), s.onlyIndex_setIndex _⟩⟩

/-! ## The range check by the last address (R76, R416) -/

/-- A range that is not empty fits exactly where its last address does. -/
theorem rangeFits_succ_iff {base : Word} {k : Nat} : rangeFits base (k + 1) = true ↔ base.toNat + k ≤ 0xFFF := by
  rw [rangeFits_iff]
  omega

theorem withIndexRange_of_beyond {s : State} {k : Nat} (access : Result) (h : 0xFFF < s.index.toNat + k) :
    withIndexRange s (k + 1) access = .fault (.addressOutOfRange s.index (k + 1)) :=
  if_neg fun hfits => Nat.not_le_of_lt h (rangeFits_succ_iff.1 hfits)

theorem withIndexRange_of_inside {s : State} {k : Nat} (access : Result) (h : s.index.toNat + k ≤ 0xFFF) :
    withIndexRange s (k + 1) access = access :=
  if_pos (rangeFits_succ_iff.2 h)

/-! ## What bytes written in a row leave (R73, R78) -/

/-- Byte `k` of the bytes written at `a` is what `a + k` reads. -/
theorem Memory.read_writeBytes_add (m : Memory) (a : Nat) {bs : List Byte} {k : Nat} (h : k < bs.length) :
    (m.writeBytes a bs).read (a + k) = bs[k] := by
  have hin : a ≤ a + k ∧ a + k < a + bs.length := ⟨Nat.le_add_right a k, Nat.add_lt_add_left h a⟩
  rw [Memory.read_writeBytes, if_pos hin, Nat.add_sub_cancel_left, List.getD_eq_getElem bs 0 h]

theorem State.onlyMem_writeBytes (s : State) (a : Nat) {bs : List Byte} {len : Nat} (hlen : bs.length = len) :
    OnlyMem s (s.setMem (s.mem.writeBytes a bs)) a len := by
  have houtside : MemKeptOutside s (s.setMem (s.mem.writeBytes a bs)) a len := by
    intro k hk
    subst hlen
    exact (Memory.read_writeBytes bs s.mem a k).trans (if_neg hk)
  exact ⟨houtside, fun _ _ => rfl, rfl, rfl, fun _ _ => rfl, ⟨rfl, fun _ => rfl⟩, ⟨rfl, rfl⟩, rfl, rfl, rfl⟩

/-! ## store-bcd (R313) -/

/-- The three bytes of `bcdDigits` are small enough to be the digits themselves. -/
theorem map_toNat_bcdDigits (v : Byte) :
    (bcdDigits v).map BitVec.toNat = [v.toNat / 100, v.toNat / 10 % 10, v.toNat % 10] := by
  have hv : v.toNat < 256 := v.isLt
  simp only [bcdDigits, List.map_cons, List.map_nil, BitVec.toNat_ofNat, List.cons.injEq, and_true]
  omega

/-- `s` after a store-bcd of V[x] whose range fits (R313). -/
def State.bcdStored (s : State) (x : Reg) : State :=
  s.setMem (s.mem.writeBytes (s.effAddr 0) (bcdDigits (s.reg x)))

/-- The bytes at I, I + 1 and I + 2 after a store-bcd are V[x] div 100, V[x] div 10 mod 10 and V[x] mod 10. -/
theorem State.toNat_byteAt_bcdStored (s : State) (x : Reg) :
    ((s.bcdStored x).byteAt (s.effAddr 0)).toNat = (s.reg x).toNat / 100 ∧
    ((s.bcdStored x).byteAt (s.effAddr 1)).toNat = (s.reg x).toNat / 10 % 10 ∧
    ((s.bcdStored x).byteAt (s.effAddr 2)).toNat = (s.reg x).toNat % 10 := by
  have hread {k : Nat} (hk : k < 3) : (s.bcdStored x).byteAt (s.effAddr k) = (bcdDigits (s.reg x))[k] :=
    Memory.read_writeBytes_add s.mem (s.effAddr 0) (bs := bcdDigits (s.reg x)) hk
  have hdigits := map_toNat_bcdDigits (s.reg x)
  rw [hread (by decide), hread (by decide), hread (by decide)]
  simpa [bcdDigits] using hdigits

/-- Settles O42: the range check decides, and the digits of `State.toNat_byteAt_bcdStored` make up V[x]. -/
theorem storeBcdWritesDecimalDigits : Obligations.StoreBcdWritesDecimalDigits := by
  intro s x
  constructor
  · exact withIndexRange_of_beyond (k := 2) _
  · intro hinside
    have hv : (s.reg x).toNat < 256 := (s.reg x).isLt
    obtain ⟨h0, h1, h2⟩ := s.toNat_byteAt_bcdStored x
    refine ⟨s.bcdStored x, withIndexRange_of_inside (k := 2) _ hinside, ?_, ?_, ?_, ?_,
      s.onlyMem_writeBytes _ rfl⟩
    all_goals omega

/-! ## The bank moves (R314, R315) -/

/-- Settles O43: the range check decides, and the bytes are those of `State.byteAt_of_storeRegisters`. -/
theorem storeRegistersWritesTheBank : Obligations.StoreRegistersWritesTheBank := by
  intro s x
  constructor
  · exact withIndexRange_of_beyond _
  · intro hinside
    have hexec := exec_storeRegisters_next.2 ⟨rangeFits_succ_iff.2 hinside, rfl⟩
    exact ⟨_, hexec, fun r hr => State.byteAt_of_storeRegisters hexec hr,
      s.onlyMem_writeBytes _ (s.length_regsUpTo x)⟩

/-- The registers above x are those that a load of the bank keeps (R315). -/
theorem State.onlyRegs_loadRegs (s : State) (x : Reg) (a : Nat) : OnlyRegs s (s.loadRegs x a) (fun r => r ≤ x) :=
  s.onlyRegs_setRegs fun r hr => (s.reg_loadRegs x r a).trans (if_neg hr)

/-- Settles O44: the range check decides, and the registers are those of `State.reg_loadRegs`. -/
theorem loadRegistersReadsTheBank : Obligations.LoadRegistersReadsTheBank := by
  intro s x
  constructor
  · exact withIndexRange_of_beyond _
  · intro hinside
    exact ⟨s.loadRegs x (s.effAddr 0), withIndexRange_of_inside _ hinside,
      fun r hr => (s.reg_loadRegs x r _).trans (if_pos hr), s.onlyRegs_loadRegs x _⟩

/-- Settles O45: the range that the store found to fit is the load's, and each register is read back from the byte it
was stored in. -/
theorem storedBankComesBack : Obligations.StoredBankComesBack := by
  intro s t u x hstore hmem hindex
  obtain ⟨hfits, -⟩ := exec_storeRegisters_next.1 hstore
  obtain ⟨w, hload, hreg, -⟩ := (loadRegistersReadsTheBank u x).2 (hindex ▸ rangeFits_succ_iff.1 hfits)
  refine ⟨w, hload, fun r hr => ?_⟩
  calc w.reg r = u.byteAt (u.effAddr r.val) := hreg r hr
    _ = t.byteAt (s.effAddr r.val) := by simp only [State.byteAt, State.effAddr, hmem, hindex]
    _ = s.reg r := State.byteAt_of_storeRegisters hstore hr

end Sys2Proof.Machine
end

section
/-! SUPPORT. The key and timer instructions (44_keys_timers.md): the key test of the skips (R340, R341), what a timer
write leaves, the two cases of wait-key (R345), and the four statements about them. -/

namespace Sys2Proof.Machine

/-! ## The key skips (R340, R341) -/

theorem withKeyIndex_of_beyond {k : Byte} (test : Nat → Result) (h : 0xF < k.toNat) :
    withKeyIndex k test = .fault (.keyIndexFault k) :=
  withKeyIndex_fault.2 (.inl ⟨h, rfl⟩)

theorem withKeyIndex_of_inside {k : Byte} (test : Nat → Result) (h : k.toNat ≤ 0xF) :
    withKeyIndex k test = test k.toNat :=
  if_neg (Nat.not_lt_of_le h)

theorem exec_skipKey (x : Reg) (s : State) : exec (.skipKey x) s =
    withKeyIndex (s.reg x) fun k => .next (s.skipIf (keyPressed s.input.key k)) := rfl

theorem exec_skipNotKey (x : Reg) (s : State) : exec (.skipNotKey x) s =
    withKeyIndex (s.reg x) fun k => .next (s.skipIf (!keyPressed s.input.key k)) := rfl

/-- PC after a skip on the negation of `c` (R225, R341). -/
theorem State.skipIf_not_pc (s : State) (c : Bool) : (s.skipIf (!c)).pc = if c then s.pc else s.pc + 2 := by
  cases c <;> rfl

/-- Settles O48: the index check decides, and behind it each of the two is a `skipIf` on the key V[x] names. -/
theorem keySkipsTestTheNamedKey : Obligations.KeySkipsTestTheNamedKey := by
  intro s x
  rw [exec_skipKey, exec_skipNotKey]
  constructor
  · intro hbeyond
    exact ⟨withKeyIndex_of_beyond _ hbeyond, withKeyIndex_of_beyond _ hbeyond⟩
  · intro hinside
    exact ⟨⟨_, withKeyIndex_of_inside _ hinside, s.skipIf_pc _, s.onlyPc_skipIf _⟩,
      ⟨_, withKeyIndex_of_inside _ hinside, s.skipIf_not_pc _, s.onlyPc_skipIf _⟩⟩

/-! ## The timer moves (R342 to R344) -/

theorem State.onlyTimers_setDt (s : State) (b : Byte) : OnlyTimers s (s.setDt b) :=
  ⟨fun _ _ => rfl, fun _ => rfl, rfl, rfl, fun _ _ => rfl, ⟨rfl, fun _ => rfl⟩, rfl, rfl, rfl⟩

theorem State.onlyTimers_setSt (s : State) (b : Byte) : OnlyTimers s (s.setSt b) :=
  ⟨fun _ _ => rfl, fun _ => rfl, rfl, rfl, fun _ _ => rfl, ⟨rfl, fun _ => rfl⟩, rfl, rfl, rfl⟩

/-- Settles O49: each move is one write, and the decay that follows it is that of `toNat_decayTimer`. -/
theorem timerMoves : Obligations.TimerMoves := by
  intro s x
  have hdt : (s.setReg x s.dt).reg x = s.dt := s.reg_setReg_same x s.dt
  exact ⟨⟨_, rfl, hdt, hdt, toNat_decayTimer s.dt, s.onlyRegs_setReg x _⟩,
    ⟨_, rfl, rfl, toNat_decayTimer (s.reg x), rfl, s.onlyTimers_setDt _⟩,
    ⟨_, rfl, rfl, toNat_decayTimer (s.reg x), rfl, s.onlyTimers_setSt _⟩⟩

/-! ## wait-key (R345, R346) -/

/-- The key that `lowestKey` finds is pressed, and no key below it is (R345). -/
theorem lowestKey_eq_some_iff {key : BitVec 16} {k : Nat} :
    lowestKey key = some k ↔ k < 16 ∧ key.getLsbD k = true ∧ ∀ j < k, key.getLsbD j = false := by
  simp only [lowestKey, keyPressed, List.find?_range_eq_some, List.mem_range, Bool.not_eq_true']
  exact and_left_comm

theorem exec_waitKey_of_no_key {s : State} (x : Reg) (h : s.input.key = 0) :
    exec (.waitKey x) s = .next (s.setPc (s.pc - 2)) := by
  rw [exec, execWaitKey, lowestKey_eq_none_iff.2 h, State.takeKey]

theorem exec_waitKey_of_lowestKey {s : State} (x : Reg) {k : Nat} (h : lowestKey s.input.key = some k) :
    exec (.waitKey x) s = .next (s.setReg x (BitVec.ofNat 8 k)) := by
  rw [exec, execWaitKey, h, State.takeKey]

/-- Settles O50: `lowestKey` finds a key unless none is pressed, and the one it finds is small enough for V[x] to hold
its index. -/
theorem waitKeyTakesTheLowestKey : Obligations.WaitKeyTakesTheLowestKey := by
  intro s x
  constructor
  · intro hnone
    exact ⟨_, exec_waitKey_of_no_key x hnone, rfl, s.onlyPc_setPc _, toNat_decayTimer s.dt, toNat_decayTimer s.st⟩
  · intro hsome
    obtain ⟨k, hk⟩ := Option.ne_none_iff_exists'.1 (mt lowestKey_eq_none_iff.1 hsome)
    obtain ⟨hlt, hpressed, hbelow⟩ := lowestKey_eq_some_iff.1 hk
    have hreg : ((s.setReg x (BitVec.ofNat 8 k)).reg x).toNat = k := by
      rw [State.reg_setReg_same, BitVec.toNat_ofNat]
      omega
    refine ⟨_, exec_waitKey_of_lowestKey x hk, ?_, ?_, s.onlyRegs_setReg x _⟩
    · rwa [hreg]
    · rwa [hreg]

/-- A tick of a blocked wait-key is the end of the tick alone: the meaning undoes the pre-advance (R221, R345). -/
theorem step_waitKey_of_no_key {s : State} {x : Reg} (hc : s.canFetch = true)
    (hi : s.fetchInstr = some (.waitKey x)) (hkey : s.input.key = 0) : step s = .next s.endTick := by
  have hback : s.preAdvance.setPc (s.preAdvance.pc - 2) = s := by
    rw [State.preAdvance_pc, BitVec.add_sub_cancel]
    rfl
  have hexec : exec (.waitKey x) s.preAdvance = .next s :=
    (exec_waitKey_of_no_key (s := s.preAdvance) x hkey).trans (congrArg Host.Outcome.next hback)
  exact step_next.2 ⟨hc, _, s, hi, hexec, rfl⟩

/-- Settles O51: the state after the tick is `s.endTick`, which differs from `s` in the timers and the tick inputs
only. -/
theorem blockedWaitKeyKeepsPolling : Obligations.BlockedWaitKeyKeepsPolling := fun s _ hc hi hkey =>
  ⟨s.endTick, step_waitKey_of_no_key hc hi hkey, rfl, hi, toNat_decayTimer s.dt, toNat_decayTimer s.st,
    rfl, rfl, rfl, rfl, rfl, rfl⟩

end Sys2Proof.Machine
end

section
/-! SUPPORT. The exceptions (60_exceptions.md): the cause of every fault (R412 to R420), when each handler raises its
own, that no fault depends on the tick inputs (R42, R281), the timers after a tick (R431) and its status (R410,
R411). -/

namespace Sys2Proof.Machine

/-! ## The cause of a fault (R412 to R420) -/

/-- A range leaves memory where it is not empty and its last address is above 0xFFF (R76, R416). -/
theorem rangeFits_eq_false_iff {base : Word} {n : Nat} :
    rangeFits base n = false ↔ 0 < n ∧ 0xFFF < base.toNat + n - 1 := by
  rw [Bool.eq_false_iff, ne_eq, rangeFits_iff_not_beyond, not_not]

/-- A meaning run at PCn stops for a cause that the rules give to the instruction fetched (R414, R415, R416, R418). -/
theorem faultCause_of_exec {s : State} {i : Instr} {f : Fault} (hc : s.canFetch = true)
    (hi : s.fetchInstr = some i) (h : exec i s.preAdvance = .fault f) : faultCause s f := by
  rcases exec_fault h with ⟨nnn, rfl, hsp, rfl⟩ | ⟨rfl, hsp, rfl⟩ | ⟨hout, rfl⟩ | ⟨x, hx, hkey, rfl⟩
  · exact ⟨hc, ⟨nnn, hi⟩, Fin.ext hsp⟩
  · exact ⟨hc, hi, Fin.ext hsp⟩
  · rw [State.preAdvance_index] at hout ⊢
    exact ⟨hc, ⟨i, hi, rfl⟩, rfl, rangeFits_eq_false_iff.1 hout⟩
  · have hskip : s.fetchInstr = some (.skipKey x) ∨ s.fetchInstr = some (.skipNotKey x) :=
      hx.imp (hi.trans <| congrArg some ·) (hi.trans <| congrArg some ·)
    exact ⟨hc, ⟨x, hskip, rfl⟩, hkey⟩

theorem step_ne_refused (s : State) (r : Refusal) : step s ≠ .refused r := by
  unfold step
  split
  · cases s.fetchInstr with
    | none => simp [raise]
    | some i =>
      cases h : exec i s.preAdvance with
      | next t => simp [finishTick, h]
      | fault f => simp [finishTick, h]
      | refused q => exact absurd h (exec_ne_refused i s.preAdvance q)
  · simp [raise]

/-- Settles O14: the three places where a tick stops (`step_fault`), the handler's by `faultCause_of_exec`. -/
theorem everyFaultHasItsCause : Obligations.EveryFaultHasItsCause := by
  intro s
  refine ⟨fun f h => ?_, step_ne_refused s⟩
  rcases step_fault.1 h with ⟨hc, rfl⟩ | ⟨hc, hi, rfl⟩ | ⟨hc, i, hi, hexec⟩
  · exact ⟨hc, rfl⟩
  · exact ⟨hc, hi, rfl⟩
  · exact faultCause_of_exec hc hi hexec

/-! ## When each handler stops (R414, R415, R416, R418) -/

/-- An access that completes wherever its range fits stops exactly where the range does not (R76, R416). -/
theorem withIndexRange_next_eq_fault_iff {s t : State} {len : Nat} :
    withIndexRange s len (.next t) = .fault (.addressOutOfRange s.index len) ↔
      0 < len ∧ 0xFFF < s.index.toNat + len - 1 := by
  simp [withIndexRange_fault, ← rangeFits_eq_false_iff]

/-- `withIndexRange_next_eq_fault_iff` by the last address of a range that is not empty. -/
theorem withIndexRange_succ_next_eq_fault_iff {s t : State} {k : Nat} :
    withIndexRange s (k + 1) (.next t) = .fault (.addressOutOfRange s.index (k + 1)) ↔
      0xFFF < s.index.toNat + k := by
  rw [withIndexRange_next_eq_fault_iff]
  omega

/-- A key test that completes wherever V[x] names a key stops exactly where it names none (R418). -/
theorem withKeyIndex_next_eq_fault_iff {k : Byte} (test : Nat → State) :
    withKeyIndex k (fun n => .next (test n)) = .fault (.keyIndexFault k) ↔ 0xF < k.toNat :=
  ⟨fun h => (withKeyIndex_fault_of_next h).1, withKeyIndex_of_beyond _⟩

/-- Settles O15: each handler's check is that of its shared operation. -/
theorem handlersCheckBeforeTheyAct : Obligations.HandlersCheckBeforeTheyAct := by
  intro s
  refine ⟨fun nnn => ?call, ?ret, fun x y n _ => ?draw, fun x => ?bcd, fun x => ?store, fun x => ?load,
    fun x => ?skipKey, fun x => ?skipNotKey⟩
  case call =>
    rw [Fin.ext_iff]
    exact execCall_fault.trans (and_iff_left rfl)
  case ret =>
    rw [Fin.ext_iff]
    exact State.popToPc_fault.trans (and_iff_left rfl)
  case draw => exact withIndexRange_next_eq_fault_iff
  case bcd => exact withIndexRange_succ_next_eq_fault_iff
  case store => exact withIndexRange_succ_next_eq_fault_iff
  case load => exact withIndexRange_succ_next_eq_fault_iff
  case skipKey => exact withKeyIndex_next_eq_fault_iff fun k => s.skipIf (keyPressed s.input.key k)
  case skipNotKey => exact withKeyIndex_next_eq_fault_iff fun k => s.skipIf (!keyPressed s.input.key k)

/-! ## Faults and the tick inputs (R42, R281, R412) -/

/-- A key test that stops, stops before its test looks at KEY (R340, R341). -/
theorem withKeyIndex_fault_congr {k : Byte} {f : Fault} {test : Nat → State} (test' : Nat → Result)
    (h : withKeyIndex k (fun n => .next (test n)) = .fault f) : withKeyIndex k test' = .fault f := by
  obtain ⟨hkey, rfl⟩ := withKeyIndex_fault_of_next h
  exact withKeyIndex_of_beyond test' hkey

/-- A meaning that stops, stops with any other inputs too: of the four readers, the key skips check V[x] first, and
wait-key and random always complete. -/
theorem exec_fault_withInputs {i : Instr} {s : State} {f : Fault} (inputs : List TickInput) (n : Nat)
    (h : exec i s = .fault f) : exec i (s.withInputs inputs n) = .fault f := by
  by_cases hr : readsInput i = true
  · cases i
    case skipKey x =>
      rw [exec_skipKey] at h ⊢
      exact withKeyIndex_fault_congr _ h
    case skipNotKey x =>
      rw [exec_skipNotKey] at h ⊢
      exact withKeyIndex_fault_congr _ h
    case waitKey x => cases h
    case random x kk => cases h
    all_goals cases hr
  · rw [onlyInputReadersDependOnInputs i s inputs n (Bool.eq_false_of_not_eq_true hr), h]
    rfl

/-- A tick that faults, faults alike with any other inputs: the PC check and the dispatch do not look at them. -/
theorem step_fault_withInputs {s : State} {f : Fault} (inputs : List TickInput) (n : Nat) (h : step s = .fault f) :
    step (s.withInputs inputs n) = .fault f := by
  rcases step_fault.1 h with ⟨hc, hf⟩ | ⟨hc, hi, hf⟩ | ⟨hc, i, hi, hexec⟩
  · exact step_fault.2 (.inl ⟨hc, hf⟩)
  · exact step_fault.2 (.inr (.inl ⟨hc, hi, hf⟩))
  · exact step_fault.2 (.inr (.inr ⟨hc, i, hi, exec_fault_withInputs (s := s.preAdvance) inputs n hexec⟩))

/-- Settles O19: `step_fault_withInputs` from either side, as lining up the old inputs again gives back `s`. -/
theorem inputsDecideNoFault : Obligations.InputsDecideNoFault := fun s inputs n _ =>
  ⟨step_fault_withInputs inputs n, step_fault_withInputs (s := s.withInputs inputs n) s.inputs s.tickCount⟩

/-! ## The timers after a tick (R431) -/

/-- DT after a set-delay is V[x] (R343). -/
theorem dt_of_exec_setDelay {s t : State} {x : Reg} (h : exec (.setDelay x) s = .next t) : t.dt = s.reg x := by
  cases h
  rfl

/-- ST after a set-sound is V[x] (R344). -/
theorem st_of_exec_setSound {s t : State} {x : Reg} (h : exec (.setSound x) s = .next t) : t.st = s.reg x := by
  cases h
  rfl

/-- Settles O17: the meaning leaves a timer alone unless it writes it (`Effect.dt_eq`, `Effect.st_eq`), and the end of
the tick counts it down; a faulting tick hands back its own state. -/
theorem timersDecayOncePerTick : Obligations.TimersDecayOncePerTick := by
  intro s i hi
  refine ⟨fun t h => ?_, fun f u st hf htick => ?_⟩
  · obtain ⟨-, j, u, hj, hexec, rfl⟩ := step_next.1 h
    obtain rfl : i = j := Option.some.inj (hi.symm.trans hj)
    rw [State.endTick_dt, State.endTick_st, toNat_decayTimer, toNat_decayTimer]
    constructor
    · split
      · rw [dt_of_exec_setDelay hexec, State.reg_preAdvance]
      · next hne => rw [(exec_effect hexec).dt_eq hne, State.preAdvance_dt]
    · split
      · rw [st_of_exec_setSound hexec, State.reg_preAdvance]
      · next hne => rw [(exec_effect hexec).st_eq hne, State.preAdvance_st]
  · rw [tick_of_fault hf] at htick
    cases htick
    exact ⟨rfl, rfl⟩

/-! ## The status of a tick (R410, R411) -/

theorem tick_of_next {s t : State} (h : step s = .next t) : tick s = some (t, .ok) := by
  rw [tick, h]

theorem statusCode_fault_ne_zero (f : Fault) : statusCode (.fault f) ≠ 0 := by
  cases f <;> exact Nat.succ_ne_zero _

/-- A fault that has its cause in a state is not Construct's, whose code alone is above 6 (R410, R419). -/
theorem statusCode_le_of_faultCause {s : State} {f : Fault} (h : faultCause s f) : statusCode (.fault f) ≤ 6 := by
  cases f
  case constructionOverflow len => exact h.elim
  all_goals exact Nat.le_of_ble_eq_true rfl

/-- Settles O16: the tick reads off what the step answers, and the code of a fault that has its cause
(`everyFaultHasItsCause`) is one of 1 to 6. -/
theorem faultingTickChangesNothing : Obligations.FaultingTickChangesNothing := by
  intro s
  refine ⟨fun f => tick_of_fault, fun t => tick_of_next, ?_⟩
  obtain ⟨hcause, hrefused⟩ := everyFaultHasItsCause s
  cases h : step s with
  | next t => exact ⟨t, .ok, tick_of_next h, Nat.zero_le 6, iff_of_true rfl rfl⟩
  | fault f =>
    exact ⟨s, .fault f, tick_of_fault h, statusCode_le_of_faultCause (hcause f h),
      iff_of_false (statusCode_fault_ne_zero f) Status.noConfusion⟩
  | refused r => exact absurd h (hrefused r)

end Sys2Proof.Machine
end

section
/-! SUPPORT. Construct and reset (70_reset_and_hazards.md): the memory that the font and the program leave, the state
around it, what an empty program's first fetch meets (R450, R451), and the statements about them. -/

namespace Sys2Proof.Machine

/-! ## The memory of Construct (R451) -/

section Loaded

variable (font : Vector Byte 80) (prog : List Byte)

/-- The memory that Construct fills: FONT at 0x000, then the program at 0x200 (R451). -/
def loadedMemory : Memory := Memory.writeBytes (Memory.writeBytes [] 0 font.toList) 0x200 prog

variable {font prog} {a : Nat}

theorem wf_loadedMemory (hfits : prog.length ≤ 3584) : (loadedMemory font prog).wf := by
  have hfont : (Memory.writeBytes [] 0 font.toList).wf := Memory.wf_writeBytes Memory.wf_reset (by simp)
  exact Memory.wf_writeBytes hfont (by omega)

theorem read_loadedMemory_outside_program (h : ¬ (0x200 ≤ a ∧ a < 0x200 + prog.length)) :
    (loadedMemory font prog).read a = (Memory.writeBytes [] 0 font.toList).read a :=
  (Memory.read_writeBytes prog _ 0x200 a).trans (if_neg h)

theorem read_loadedMemory_font (h : a < 80) : (loadedMemory font prog).read a = font[a] := by
  have hlen : a < font.toList.length := by rwa [Vector.length_toList]
  have hread := Memory.read_writeBytes_add [] 0 hlen
  rw [Nat.zero_add, Vector.getElem_toList] at hread
  rw [read_loadedMemory_outside_program (by omega), hread]

/-- No unlisted address past the font reads as anything but 0 (R49). -/
theorem Memory.background_of_le (h : 0x50 ≤ a) : Memory.background a = 0 :=
  List.getD_eq_default defaultFont 0 h

theorem read_loadedMemory_free (hfont : 0x50 ≤ a) (h : ¬ (0x200 ≤ a ∧ a < 0x200 + prog.length)) :
    (loadedMemory font prog).read a = 0 := by
  have hpast : ¬ (0 ≤ a ∧ a < 0 + font.toList.length) := by
    rw [Vector.length_toList]
    omega
  rw [read_loadedMemory_outside_program h, Memory.read_writeBytes, if_neg hpast]
  exact Memory.background_of_le hfont

theorem read_loadedMemory_program {k : Nat} (h : k < prog.length) :
    (loadedMemory font prog).read (0x200 + k) = prog[k] :=
  Memory.read_writeBytes_add _ 0x200 h

end Loaded

/-- The default font and no program leave every address as it reads when unlisted (log entry 3). -/
theorem loadedMemory_default : loadedMemory defaultFontTable [] = [] := by
  refine equalReadsAreEqualMemories _ _ (wf_loadedMemory (Nat.zero_le _)) Memory.wf_reset fun a _ => ?_
  by_cases h : a < 80
  · exact (read_loadedMemory_font h).trans (Vector.getElem_ofFn h)
  · have hpast : 0x50 ≤ a := Nat.le_of_not_lt h
    exact (read_loadedMemory_free hpast (by simp)).trans (Memory.background_of_le hpast).symm

/-! ## The state of Construct (R49, R450, R451) -/

/-- The state that Construct gives for a program that fits: reset around the loaded memory, with the parameters. -/
def constructed (p : Params) (font : Vector Byte 80) (prog : List Byte) : State :=
  (State.reset.setMem (loadedMemory font prog)).withParams p

section Construct

variable {p : Params} {font : Vector Byte 80} {prog : List Byte}

theorem construct_of_fits (h : prog.length ≤ 3584) : construct p font prog = .ok (constructed p font prog) := if_pos h

theorem construct_of_overflow (h : 3584 < prog.length) :
    construct p font prog = .error (.constructionOverflow prog.length) := if_neg (Nat.not_le_of_lt h)

/-- A Construct that succeeds: the program fits, and the state is the constructed one. -/
theorem construct_ok {t : State} :
    construct p font prog = .ok t ↔ prog.length ≤ 3584 ∧ t = constructed p font prog := by
  by_cases h : prog.length ≤ 3584
  · simp [construct_of_fits, h, eq_comm]
  · simp [construct_of_overflow (Nat.lt_of_not_le h), h]

/-- Every register, stack entry and pixel of the constructed state is 0 (R49). -/
theorem reg_constructed (r : Reg) : (constructed p font prog).reg r = 0 := Vector.getElem_replicate ..

theorem stackEntry_constructed (j : Fin 16) : (constructed p font prog).stackEntry j = 0 := Vector.getElem_replicate ..

theorem pixel_constructed (r : Fin 32) (c : Fin 64) : (constructed p font prog).fb.pixel r c = false :=
  FrameBuffer.pixel_clear r c

/-- PC = 0x200 passes the check of every PC_CHECK (R223, R452). -/
theorem canFetch_constructed : (constructed p font prog).canFetch = true :=
  pcFetchable_of_strict (pc := 0x200) (by decide) p.pcCheck

/-- The first fetch of an empty program reads two free bytes (R451). -/
theorem fetchWord_constructed_nil : (constructed p font []).fetchWord = 0x0000 := by
  have h0 : (constructed p font []).byteAt 0x200 = 0 := read_loadedMemory_free (by decide) (by decide)
  have h1 : (constructed p font []).byteAt 0x201 = 0 := read_loadedMemory_free (by decide) (by decide)
  exact congrArg₂ wordOfBytes h0 h1

end Construct

/-! ## The statements -/

/-- Settles O2: the loaded memory read region by region, the zeros of reset around it, and the word 0x0000 in either
decode mode. -/
theorem constructFillsEveryField : Obligations.ConstructFillsEveryField := by
  intro p font prog
  refine ⟨construct_of_overflow, fun hfits => ⟨constructed p font prog, construct_of_fits hfits, ?_⟩, fun t ht => ?_⟩
  · exact ⟨fun a h => read_loadedMemory_font h,
      fun a hfont h => read_loadedMemory_free hfont (by omega),
      fun k h => read_loadedMemory_program h,
      fun a h _ => read_loadedMemory_free (by omega) (by omega),
      reg_constructed, rfl, rfl, stackEntry_constructed, rfl, rfl, pixel_constructed, rfl, rfl⟩
  · obtain ⟨-, rfl⟩ := construct_ok.1 ht
    have hword : (constructed p font []).fetchWord = 0x0000 := fetchWord_constructed_nil
    have hparams : (constructed p font []).params = p := rfl
    refine ⟨hword, fun hmode => ?_, fun hmode => ?_⟩
    · rw [State.fetchInstr_eq, hparams, hmode, hword]
      rfl
    · rw [← hword, step_decodeFault_iff canFetch_constructed, hparams, hmode, hword]
      rfl

/-- Settles O24: the loaded memory is canonical, and PC and the stack are those of reset (`resetMeetsTheInvariant`). -/
theorem constructMeetsTheInvariant : Obligations.ConstructMeetsTheInvariant := by
  intro p font prog t ht
  obtain ⟨hfits, rfl⟩ := construct_ok.1 ht
  exact {
    memCanonical := wf_loadedMemory hfits
    pcBound := resetMeetsTheInvariant.pcBound
    stackBound := resetMeetsTheInvariant.stackBound
    returnsAligned := fun _ _ hj => absurd hj (Nat.not_lt_zero _) }

/-- Settles O1: the default font and no program leave the memory of reset (`loadedMemory_default`). -/
theorem resetIsConstructOfNothing : Obligations.ResetIsConstructOfNothing := by
  refine construct_ok.2 ⟨Nat.zero_le _, ?_⟩
  rw [constructed, loadedMemory_default]
  rfl

end Sys2Proof.Machine
end
